-- ==== Sys2Proof/Word.lean ====
section
/-! DEFINITION. The word types: 32-bit registers (00_scope.md R10) and payload bytes. -/

namespace Sys2Proof

/-- Every register, command word and response word is 32 bits wide; bit 0 is the least significant (R10, R90). -/
abbrev Word := BitVec 32

/-- A payload byte (R10, R94). -/
abbrev Byte := BitVec 8

end Sys2Proof
end

