-- ==== Sys2Proof/Config.lean ====
section
/-! DEFINITION. The parameters of 00_scope.md R9 as plain data, the sets they range over, and the free values. -/

namespace Sys2Proof

/-- `N_BANKS` (R9): 28 filter banks, numbered 0 to 27. -/
abbrev nBanks : Nat := 28

/-- `FIFO_DEPTH` (R9): a receive FIFO holds at most three frames. -/
abbrev fifoDepth : Nat := 3

/-- `MAX_PAYLOAD` (R9): eight payload bytes at most. -/
abbrev maxPayload : Nat := 8

/-- `INSTANCE` (R9): the controller instance a SEQ serves. -/
inductive Inst where
  | primary
  | secondary
deriving DecidableEq, Repr

/-- The other controller instance. -/
def Inst.other : Inst → Inst
  | .primary => .secondary
  | .secondary => .primary

/-- The two receive FIFOs of an instance (`N_FIFO` of R9). -/
inductive Fifo where
  | f0
  | f1
deriving DecidableEq, Repr

/-- The three transmit mailboxes of an instance (`N_MAILBOX` of R9). -/
inductive Mb where
  | m0
  | m1
  | m2
deriving DecidableEq, Repr

/-- Scale of a filter bank (R44): two 16-bit filters a register, or one 32-bit filter. -/
inductive FilterScale where
  | s16
  | s32
deriving DecidableEq, Repr

/-- Mode of a filter bank (R44): mask based or exact list. -/
inductive FilterMode where
  | mask
  | list
deriving DecidableEq, Repr

/-- `PRIMARY_RESET_SCOPE` (R9, R266). -/
inductive ResetScope where
  | primaryAndFilters
  | allInstances
deriving DecidableEq, Repr

/-- `NUM_CONTROLLERS` (R9, R260): one instance, the primary, or two. The spec refuses any other number (U24), and so does
the type. -/
inductive Controllers where
  | one
  | two
deriving DecidableEq, Repr

/-- The parameter `Match` (R9, R231): the default rule of R231, or the `k`-th uninterpreted predicate,
`Config.customMatch k`, so that a statement over every state holds for any acceptance test (log 13). -/
inductive MatchRule where
  | standard
  | custom (k : Nat)
deriving DecidableEq, Repr

/-- The open parameters of R9. They are arguments of the model: the field `cfg` of the state holds them, nothing writes
it, and a statement over every state holds for every value (log 2). -/
structure Config where
  /-- `TX_TICK_BUDGET`: completion polls a `TX` makes before it gives up (D12). -/
  txTickBudget : Nat
  /-- `NUM_CONTROLLERS` (D23). -/
  controllers : Controllers
  /-- `EXIT_ACK_WAIT[PRIMARY]` (D23). -/
  exitAckWaitPrimary : Bool
  /-- `EXIT_ACK_WAIT[SECONDARY]` (D23). -/
  exitAckWaitSecondary : Bool
  /-- `PRIMARY_RESET_SCOPE` (D24). -/
  primaryResetScope : ResetScope
  /-- `UNSUPPORTED_COMBO` (D19). -/
  unsupportedCombo : List (FilterScale × FilterMode)
  /-- `RX_RELEASE_ON_INVALID` (D16). -/
  rxReleaseOnInvalid : Bool
  /-- `CAN_BASE[PRIMARY]` (D5). -/
  canBasePrimary : Word
  /-- `CAN_BASE[SECONDARY]` (D5). -/
  canBaseSecondary : Word
  /-- `Match` (D29). -/
  matchRule : MatchRule
deriving DecidableEq, Repr

/-- The parameter values the spec refuses: a tick budget of 0 (U1) and a base address that is no multiple of 4
(R74, U19). That the base of an absent secondary counts too is a DESIGN CHOICE (log 35). -/
def Config.valid (g : Config) : Bool :=
  decide (1 ≤ g.txTickBudget) && decide (g.canBasePrimary.toNat % 4 = 0) && decide (g.canBaseSecondary.toNat % 4 = 0)

/-- The values the spec gives as defaults in R9. It gives none for `TX_TICK_BUDGET` and `PRIMARY_RESET_SCOPE`
(DESIGN CHOICE, log 2) and none for `CAN_BASE` (PRESUMED: the STM32F7 family's addresses, log 2). -/
def Config.default : Config :=
  { txTickBudget := 4
    controllers := .two
    exitAckWaitPrimary := true
    exitAckWaitSecondary := false
    primaryResetScope := .primaryAndFilters
    unsupportedCombo := []
    rxReleaseOnInvalid := false
    canBasePrimary := 0x40006400
    canBaseSecondary := 0x40006800
    matchRule := .standard }

/-- The free values: the `n`-th word drawn. Registers that a reset leaves unspecified (R61, R265; log 4) and register
fields that are not modelled (R63; log 5) take their bits from it. It has no body, so no value of it is known. -/
opaque Config.freeWord : Nat → Word

/-- What an acceptance test looks at (R231): a bank's scale (true: 32-bit), mode (true: list) and two registers, and a
frame's identifier image, length code and payload lanes. -/
structure MatchInput where
  scale32 : Bool
  listMode : Bool
  fr1 : Word
  fr2 : Word
  idImage : Word
  dlc : BitVec 4
  lo : Word
  hi : Word
deriving DecidableEq, Repr

/-- The uninterpreted acceptance tests (R9, D29; log 13). It has no body. -/
opaque Config.customMatch : Nat → MatchInput → Bool

end Sys2Proof
end

