-- ==== Sys2Proof/Syntax.lean ====
section
/-! DEFINITION. The command set (00_scope.md R2) with its operands (30_encoding.md R93 to R96), and the command and
response blocks (R90, R99). -/

namespace Sys2Proof

/-- The identifier of a frame (R94): base, 11 bits, or extended, 29 bits. A base number over 11 bits (R106 (c)) cannot be
written in this type; the decoder rejects the block that holds one. -/
inductive Identifier where
  | base (n : BitVec 11)
  | ext (n : BitVec 29)
deriving DecidableEq, Repr

/-- The logical frame (R94): a Data Frame carries an explicit length and `bytes[k]` for `k` below it, a Remote Frame only
an identifier. Two frames are equal as R94 says exactly when they are equal terms. A length above 8 can be presented and
is rejected by `ENCODE`; only eight bytes come with it (log 8). -/
inductive Frame where
  | data (id : Identifier) (len : Nat) (bytes : List Byte)
  | remote (id : Identifier)
deriving DecidableEq, Repr

/-- Operands of `INIT` (R93). The timing fields are wide enough to hold values out of range. -/
structure InitOp where
  loopback : Bool
  silent : Bool
  autoBusOff : Bool
  autoWakeup : Bool
  noAutoRetransmit : Bool
  rxFifoLock : Bool
  txFifoPriority : Bool
  prescaler : BitVec 11
  sjw : BitVec 3
  seg1 : BitVec 5
  seg2 : BitVec 4
deriving DecidableEq, Repr

/-- Operands of `CFGFILT` (R95). `bank` is wide enough to hold an index of 28 or more. -/
structure FilterOp where
  bank : BitVec 8
  fifo : Fifo
  mode : FilterMode
  scale : FilterScale
  enable : Bool
  idHigh : BitVec 16
  idLow : BitVec 16
  maskHigh : BitVec 16
  maskLow : BitVec 16
deriving DecidableEq, Repr

/-- The rows of spec/opcode_table.json (R112): the four commands (R92, R111), and the two codec functions, which have
rules but no command encoding. -/
inductive Instr where
  /-- `INIT` (R201) -/
  | init (op : InitOp)
  /-- `CFGFILT` (R176) -/
  | cfgfilt (op : FilterOp)
  /-- `TX` (R141) -/
  | tx (fr : Frame)
  /-- `RX` (R161) -/
  | rx (f : Fifo)
  /-- `ENCODE` (R120) -/
  | encode (fr : Frame)
  /-- `DECODE` (R125) -/
  | decode (ri rdt rdl rdh : Word)
deriving DecidableEq, Repr

/-- A command block, the words `C0` to `C4` (R90). -/
structure Block where
  c0 : Word
  c1 : Word
  c2 : Word
  c3 : Word
  c4 : Word
deriving DecidableEq, Repr

/-- A response block, the words `S0` to `S4` (R90, R99). -/
structure Resp where
  s0 : Word
  s1 : Word
  s2 : Word
  s3 : Word
  s4 : Word
deriving DecidableEq, Repr

end Sys2Proof
end

