-- ==== Sys2Proof/WellFormed.lean ====
section
/-! DEFINITION. Which terms of `Instr` a command block stands for (30_encoding.md R94, R112). -/

namespace Sys2Proof

/-- A frame that words 1 to 4 of R94 can hold: `LEN` is an 8-bit field, and a Data Frame has the bytes below its length,
of which the two payload words hold at most eight. -/
def Frame.wellFormed : Frame → Bool
  | .data _ len bytes => decide (len < 256) && decide (bytes.length = min len maxPayload)
  | .remote _ => true

/-- An instruction that has a command block. `ENCODE` and `DECODE` have none (R112); the operands of the other commands
are fields of exactly the widths of R91 to R95, so only a frame can be ill-formed. -/
def Instr.wellFormed : Instr → Bool
  | .init _ => true
  | .cfgfilt _ => true
  | .tx fr => fr.wellFormed
  | .rx _ => true
  | .encode _ => false
  | .decode _ _ _ _ => false

end Sys2Proof
end

