-- ==== Sys2Proof/Decode.lean ====
section
/-! DEFINITION. The decoder of command blocks (30_encoding.md R90 to R96, R105 to R107), the encoder, and the frame words
of R94, which the response of `RX` uses too (R99). -/

namespace Sys2Proof

/-- The word with bit `n` equal to `b` and every other bit 0. -/
def flagBit (n : Nat) (b : Bool) : Word := if b then 1#32 <<< n else 0

/-- Byte `k` of a payload of length `len` (R101, R10): 0 in the lanes at or above `len`. -/
def laneByte (len : Nat) (bytes : List Byte) (k : Nat) : Byte := if k < len then bytes.getD k 0 else 0

/-- `PayloadLow` (R101): bytes 0 to 3, byte `k` at bits `8k+7` to `8k` (R24, R73). -/
def payloadLow (len : Nat) (bytes : List Byte) : Word :=
  laneByte len bytes 3 ++ laneByte len bytes 2 ++ laneByte len bytes 1 ++ laneByte len bytes 0

/-- `PayloadHigh` (R101): bytes 4 to 7, byte `k` at bits `8(k-4)+7` to `8(k-4)`. -/
def payloadHigh (len : Nat) (bytes : List Byte) : Word :=
  laneByte len bytes 7 ++ laneByte len bytes 6 ++ laneByte len bytes 5 ++ laneByte len bytes 4

/-- The eight byte lanes of two payload words, lane 0 first (R24, R94). -/
def laneBytes (lo hi : Word) : List Byte :=
  [lo.extractLsb' 0 8, lo.extractLsb' 8 8, lo.extractLsb' 16 8, lo.extractLsb' 24 8,
   hi.extractLsb' 0 8, hi.extractLsb' 8 8, hi.extractLsb' 16 8, hi.extractLsb' 24 8]

/-- Word 1 of a frame (R94): the identifier right-aligned, bit 29 zero, `RTR` bit 30, `IDE` bit 31. -/
def idWord : Identifier → Bool → Word
  | .base n, rtr => n.setWidth 32 ||| flagBit 30 rtr
  | .ext n, rtr => n.setWidth 32 ||| flagBit 30 rtr ||| flagBit 31 true

/-- The words 1 to 4 of a frame in canonical form (R94, R99): bytes at or above the length 0, and for a Remote Frame
words 2 to 4 all 0. -/
def frameWords : Frame → Word × Word × Word × Word
  | .data id len bytes =>
    (idWord id false, (BitVec.ofNat 8 len).setWidth 32, payloadLow len bytes, payloadHigh len bytes)
  | .remote id => (idWord id true, 0, 0, 0)

/-- Why a block is no command: each is answered with `IllegalCommand` (R105, R106). -/
inductive DecodeError where
  /-- `OPC` is 0x0 or 0x5 to 0xF (R92, R105). -/
  | reservedOpcode
  /-- A must-be-zero bit of `C0` is 1 (R106 (a)). -/
  | headerMbz
  /-- `SEL` = 1 in a command other than `RX` (R106 (b)). -/
  | selOutsideRx
  /-- A must-be-zero bit of an operand word the command uses is 1 (R106 (a)). -/
  | operandMbz
  /-- `IDE` = 0 with `ID[28:11]` not 0 (R106 (c)). -/
  | baseIdTooWide
deriving DecidableEq, Repr

/-- The decoder's answer: an instruction, or the reason there is none. -/
inductive Decoded where
  | ok (i : Instr)
  | bad (e : DecodeError)
deriving DecidableEq, Repr

/-- The operands of `INIT` (R93). -/
def decodeInit (c1 c2 : Word) : Decoded :=
  if c1.extractLsb' 7 25 ≠ 0 then .bad .operandMbz
  else if c2.getLsbD 11 || c2.getLsbD 15 then .bad .operandMbz
  else if c2.extractLsb' 21 3 ≠ 0 then .bad .operandMbz
  else if c2.extractLsb' 28 4 ≠ 0 then .bad .operandMbz
  else .ok (.init
    { loopback := c1.getLsbD 0
      silent := c1.getLsbD 1
      autoBusOff := c1.getLsbD 2
      autoWakeup := c1.getLsbD 3
      noAutoRetransmit := c1.getLsbD 4
      rxFifoLock := c1.getLsbD 5
      txFifoPriority := c1.getLsbD 6
      prescaler := c2.extractLsb' 0 11
      sjw := c2.extractLsb' 12 3
      seg1 := c2.extractLsb' 16 5
      seg2 := c2.extractLsb' 24 4 })

/-- The operands of `CFGFILT` (R95). -/
def decodeFilter (c1 c2 c3 : Word) : Decoded :=
  if c1.extractLsb' 12 20 ≠ 0 then .bad .operandMbz
  else .ok (.cfgfilt
    { bank := c1.extractLsb' 0 8
      fifo := if c1.getLsbD 8 then .f1 else .f0
      mode := if c1.getLsbD 9 then .list else .mask
      scale := if c1.getLsbD 10 then .s32 else .s16
      enable := c1.getLsbD 11
      idHigh := c2.extractLsb' 16 16
      idLow := c2.extractLsb' 0 16
      maskHigh := c3.extractLsb' 16 16
      maskLow := c3.extractLsb' 0 16 })

/-- The identifier of word 1 (R94); `none` for a base identifier that does not fit 11 bits (R106 (c)). -/
def wordId (w1 : Word) : Option Identifier :=
  if w1.getLsbD 31 then some (.ext (w1.extractLsb' 0 29))
  else if w1.extractLsb' 11 18 ≠ 0 then none
  else some (.base (w1.extractLsb' 0 11))

/-- The operands of `TX` (R94, R96). For a Remote Frame the words 2 to 4 are ignored whole (log 7). -/
def decodeTx (c1 c2 c3 c4 : Word) : Decoded :=
  if c1.getLsbD 29 then .bad .operandMbz
  else match wordId c1 with
    | none => .bad .baseIdTooWide
    | some id =>
      if c1.getLsbD 30 then .ok (.tx (.remote id))
      else if c2.extractLsb' 8 24 ≠ 0 then .bad .operandMbz
      else
        .ok (.tx (.data id (c2.extractLsb' 0 8).toNat
          ((laneBytes c3 c4).take (min (c2.extractLsb' 0 8).toNat maxPayload))))

/-- The decoder (R91, R92, R105 to R107): total on every block, and `C0[3:0]` alone tells the command. -/
def decodeBlock (b : Block) : Decoded :=
  let opc := b.c0.extractLsb' 0 4
  let sel := b.c0.getLsbD 4
  if opc = 0 ∨ 5 ≤ opc.toNat then .bad .reservedOpcode
  else if b.c0.extractLsb' 5 27 ≠ 0 then .bad .headerMbz
  else if opc = 4 then .ok (.rx (if sel then .f1 else .f0))
  else if sel then .bad .selOutsideRx
  else if opc = 1 then decodeInit b.c1 b.c2
  else if opc = 2 then decodeFilter b.c1 b.c2 b.c3
  else decodeTx b.c1 b.c2 b.c3 b.c4

/-- The block of a table word: bit 0 is the least significant bit of `C0`, later words count on from it, and the bits
above `nbits` are 0. -/
def tableBlock (nbits w : Nat) : Block :=
  let v : BitVec 160 := BitVec.ofNat 160 (w % 2 ^ nbits)
  { c0 := v.extractLsb' 0 32
    c1 := v.extractLsb' 32 32
    c2 := v.extractLsb' 64 32
    c3 := v.extractLsb' 96 32
    c4 := v.extractLsb' 128 32 }

/-- What the decoder reads from a word of spec/opcode_table.json. -/
def decodeTableWord (nbits w : Nat) : Option Instr :=
  match decodeBlock (tableBlock nbits w) with
  | .ok i => some i
  | .bad _ => none

/-! The encoder, from the same tables. -/

/-- The header word of a command (R91, R92). -/
def headerWord (opc : Nat) (sel : Bool) : Word := BitVec.ofNat 32 opc ||| flagBit 4 sel

/-- Words `C1` and `C2` of `INIT` (R93). -/
def encodeInit (op : InitOp) : Block :=
  { c0 := headerWord 1 false
    c1 := flagBit 0 op.loopback ||| flagBit 1 op.silent ||| flagBit 2 op.autoBusOff ||| flagBit 3 op.autoWakeup
      ||| flagBit 4 op.noAutoRetransmit ||| flagBit 5 op.rxFifoLock ||| flagBit 6 op.txFifoPriority
    c2 := op.prescaler.setWidth 32 ||| (op.sjw.setWidth 32 <<< 12) ||| (op.seg1.setWidth 32 <<< 16)
      ||| (op.seg2.setWidth 32 <<< 24)
    c3 := 0
    c4 := 0 }

/-- Words `C1` to `C3` of `CFGFILT` (R95). -/
def encodeFilter (op : FilterOp) : Block :=
  { c0 := headerWord 2 false
    c1 := op.bank.setWidth 32 ||| flagBit 8 (decide (op.fifo = .f1)) ||| flagBit 9 (decide (op.mode = .list))
      ||| flagBit 10 (decide (op.scale = .s32)) ||| flagBit 11 op.enable
    c2 := op.idHigh ++ op.idLow
    c3 := op.maskHigh ++ op.maskLow
    c4 := 0 }

/-- Words `C1` to `C4` of `TX` (R94, R96). -/
def encodeTx (fr : Frame) : Block :=
  let w := frameWords fr
  { c0 := headerWord 3 false, c1 := w.1, c2 := w.2.1, c3 := w.2.2.1, c4 := w.2.2.2 }

/-- The command block of an instruction, with every ignored word 0; the codec functions have none (R112). -/
def encodeBlock : Instr → Option Block
  | .init op => some (encodeInit op)
  | .cfgfilt op => some (encodeFilter op)
  | .tx fr => some (encodeTx fr)
  | .rx f => some { c0 := headerWord 4 (decide (f = .f1)), c1 := 0, c2 := 0, c3 := 0, c4 := 0 }
  | .encode _ => none
  | .decode _ _ _ _ => none

end Sys2Proof
end

