-- ==== Sys2Proof/Machine/State.lean ====
section
/-! DEFINITION. The state of the block (10_state.md), its reset value, and the reasons a step can stop. -/

namespace Sys2Proof.Machine

/-- The identifier register `TI[i]` of a transmit mailbox, field by field (R22). -/
structure TiReg where
  /-- bits [31:21] -/
  stid : BitVec 11
  /-- bits [20:3] -/
  exid : BitVec 18
  /-- bit [2] -/
  ide : Bool
  /-- bit [1] -/
  rtr : Bool
  /-- bit [0], the transmission-request flag -/
  txrq : Bool
deriving DecidableEq, Repr

/-- A transmit mailbox: its four registers (R22 to R24) and its four flags of `TSR` (R34). The reserved and time-stamp
bits of `TDT` are not modelled (R23, R63). -/
structure Mailbox where
  ti : TiReg
  /-- `TDT[3:0]` -/
  dlc : BitVec 4
  /-- `TDT[8]` -/
  tgt : Bool
  tdl : Word
  tdh : Word
  /-- `TSR[8i]` -/
  rqcp : Bool
  /-- `TSR[8i+1]` -/
  txok : Bool
  /-- `TSR[8i+7]` -/
  abrq : Bool
  /-- `TSR[26+i]` -/
  tme : Bool
deriving DecidableEq, Repr

/-- An entry of a receive queue: a register image (R50). -/
structure Entry where
  ri : Word
  rdt : Word
  rdl : Word
  rdh : Word
deriving DecidableEq, Repr

/-- A receive FIFO: the hidden queue (R50) and the flags of `RF[f]` that are not a function of it (R35, R51). `FMP` is
the queue's length and `RFOM` reads 0, so neither is stored (log 21). -/
structure RxFifo where
  queue : List Entry
  full : Bool
  fovr : Bool
deriving DecidableEq, Repr

/-- The master control register (R40). -/
structure McrReg where
  inrq : Bool
  sleep : Bool
  txfp : Bool
  rflm : Bool
  nart : Bool
  awum : Bool
  abom : Bool
deriving DecidableEq, Repr

/-- The master status register (R41). -/
structure MsrReg where
  inak : Bool
  slak : Bool
deriving DecidableEq, Repr

/-- The mailbox image that `ENCODE` gives (R120). -/
structure Image where
  ti : Word
  dlc : BitVec 4
  hasData : Bool
  tdl : Word
  tdh : Word
deriving DecidableEq, Repr

/-- The steps of `INIT` (R201). -/
inductive InitStep where
  | i0 | i1 | i2 | i3 | i4 | i5 | i6 | i7 | i8 | i9
deriving DecidableEq, Repr

/-- The steps of `CFGFILT` (R176); F7 is two steps. -/
inductive FilterStep where
  | f0 | f1 | f2 | f3 | f4 | f5 | f6 | f7a | f7b | f8 | f9
deriving DecidableEq, Repr

/-- The steps of `TX` (R141); T5 is two steps for a Data Frame and none for a Remote Frame. The steps that load the
mailbox carry the image computed at T2. -/
inductive TxStep where
  | t1 | t2
  | t3 (img : Image)
  | t4 (img : Image)
  | t5a (img : Image)
  | t5b (img : Image)
  | t6 | t7 | t8 | t9
deriving DecidableEq, Repr

/-- The steps of `RX` (R161); X7 carries the frame decoded at X6. -/
inductive RxStep where
  | x1 | x2 | x3 | x4 | x5 | x6
  | x7 (fr : Frame)
deriving DecidableEq, Repr

/-- The sequencer's phase (R56): `IDLE`, or `BUSY(cmd, step)` with the operands of the command. -/
inductive Phase where
  | idle
  | init (op : InitOp) (at_ : InitStep)
  | filter (op : FilterOp) (at_ : FilterStep)
  | tx (fr : Frame) (at_ : TxStep)
  | rx (f : Fifo) (at_ : RxStep)
deriving DecidableEq, Repr

/-- The register values a command has read (R56). -/
structure Latch where
  tsr : Word
  rf : Word
  ri : Word
  rdt : Word
  rdl : Word
  rdh : Word
deriving DecidableEq, Repr

/-- The registers of the register map (R21). `FLT` registers belong to no instance (R11). -/
inductive Reg where
  | mcr (c : Inst)
  | msr (c : Inst)
  | tsr (c : Inst)
  | rf (c : Inst) (f : Fifo)
  | btr (c : Inst)
  | ti (c : Inst) (i : Mb)
  | tdt (c : Inst) (i : Mb)
  | tdl (c : Inst) (i : Mb)
  | tdh (c : Inst) (i : Mb)
  | ri (c : Inst) (f : Fifo)
  | rdt (c : Inst) (f : Fifo)
  | rdl (c : Inst) (f : Fifo)
  | rdh (c : Inst) (f : Fifo)
  | fmr
  | fm1r
  | fs1r
  | ffa1r
  | fa1r
  | fr1 (b : Nat)
  | fr2 (b : Nat)
deriving DecidableEq, Repr

/-- The fields that a `FieldWrite` of R83 names. -/
inductive Field where
  | inrq | sleep | txfp | rflm | nart | awum | abom
  | dlc | tgt | txrq
  | abrq (i : Mb)
  | rfom | fovr | full
  | finit
  | bank (b : Nat)
deriving DecidableEq, Repr

/-- A register access of SEQ, in the notation of R83: `RegRead`, `RegWrite`, `FieldWrite` (R12). -/
inductive Access where
  | R (r : Reg)
  | W (r : Reg)
  | F (r : Reg) (fields : List Field)
deriving DecidableEq, Repr

/-- The sequencer record `c.seq` (R56). -/
structure Seq where
  phase : Phase
  /-- the latched command block -/
  operands : Block
  /-- the mailbox `TX` selected -/
  sel : Mb
  /-- completion polls made by the current `TX` (R256) -/
  tick : Nat
  latch : Latch
  /-- an `INIT` has returned `Ok` (R58) -/
  inited : Bool
  /-- the model's own: the accesses made by the current or last command, oldest first (R83; log 20) -/
  trace : List Access
deriving DecidableEq, Repr

/-- One controller instance (R20): its register block, its FIFOs, its sequencer and its command port. -/
structure Ctrl where
  mcr : McrReg
  msr : MsrReg
  btr : Word
  mb0 : Mailbox
  mb1 : Mailbox
  mb2 : Mailbox
  rf0 : RxFifo
  rf1 : RxFifo
  seq : Seq
  /-- the block HOST presents and SEQ has not taken yet (R90) -/
  cmd : Option Block
  /-- the response block, valid when the phase is `IDLE` (R90) -/
  resp : Resp
deriving DecidableEq, Repr

/-- The shared filter block `FLT` (R43, R44, R48). -/
structure Filters where
  /-- `FMR[0]` -/
  finit : Bool
  fm1r : BitVec 28
  fs1r : BitVec 28
  ffa1r : BitVec 28
  fa1r : BitVec 28
  fr1 : Vector Word 28
  fr2 : Vector Word 28
deriving DecidableEq, Repr

/-- A frame on the bus (R233): any identifier, data or remote, a length code 0 to 15 and eight payload lanes. -/
structure BusFrame where
  id : Identifier
  rtr : Bool
  dlc : BitVec 4
  lo : Word
  hi : Word
deriving DecidableEq, Repr

/-- The bits of a stored image that R234 leaves unspecified: bit 0 of `ri`, bits [31:4] of `rdt`, and the lanes that
carry no payload. -/
structure Junk where
  ri0 : Bool
  rdt : BitVec 28
  lo : Word
  hi : Word
deriving DecidableEq, Repr

/-- The steps of BUS (45_bus_engine.md). -/
inductive BusStep where
  /-- BUS-INAK-SET (R224) -/
  | inakSet
  /-- BUS-INAK-CLR (R225) -/
  | inakClr
  /-- BUS-SLAK-CLR (R225) -/
  | slakClr
  /-- BUS-TX-OK (R217) -/
  | txOk (i : Mb)
  /-- BUS-TX-END (R218) -/
  | txEnd (i : Mb)
  /-- BUS-DEPOSIT (R229) -/
  | deposit (f : Fifo) (fr : BusFrame) (junk : Junk)
  /-- BUS-OVERRUN (R230) -/
  | overrun (f : Fifo) (fr : BusFrame) (junk : Junk)
deriving DecidableEq, Repr

/-- A turn of one agent (R78): HOST presents a block, a SEQ makes its next step, a BUS takes a step. -/
inductive Turn where
  | host (c : Inst) (b : Block)
  | seq (c : Inst)
  | bus (c : Inst) (e : BusStep)
deriving DecidableEq, Repr

/-- The value of a codec function that was run by itself (R120, R125): `none` inside is `Err(InvalidFrame)`. -/
inductive CodecResult where
  | encoded (r : Option Image)
  | decoded (r : Option Frame)
deriving DecidableEq, Repr

/-- The state of the system (R20, R260). -/
structure State where
  /-- the parameters of R9, which nothing writes -/
  cfg : Config
  primary : Ctrl
  secondary : Ctrl
  flt : Filters
  /-- the model's own: the instance whose SEQ `step` serves (log 1) -/
  active : Inst
  /-- the model's own: the turns of the agents to come (log 1) -/
  env : List Turn
  /-- the model's own: free values drawn so far (log 5) -/
  draws : Nat
  /-- the model's own: the value of the last codec function run by itself (log 19) -/
  codec : Option CodecResult
deriving DecidableEq, Repr

/-- Why the machine stops. -/
inductive Fault where
  /-- A step of `CFGFILT` writes `FS1R`, `FM1R`, `FFA1R`, `FR1[b]` or `FR2[b]` while `FINIT` = 0, which only overlapping
  commands bring about (R276, U8). Safe: the spec gives the write no meaning (log 14). -/
  | filterWriteOutsideInit
  /-- A step of `RX` reads a window register of an empty FIFO (R25, U12). Safe: no reachable command does it (log 15). -/
  | windowEmpty
  /-- Step I2 of the primary's `INIT` resets the secondary while the secondary runs a command (R277, U21). Safe: HOST
  must not do it (log 16). -/
  | resetUnderCommand
deriving DecidableEq, Repr

/-- Why the machine refuses to go on. -/
inductive Refusal where
  /-- An instruction without a meaning yet; raised by no arm of `exec`. Safe. -/
  | notModelled (mnemonic : String)
  /-- `step` finds a parameter value the spec refuses: a tick budget of 0 (U1) or a misaligned base (U19). Safe. -/
  | badParameter
  /-- `step` or a turn names the secondary of a system that has one controller (R260). Safe. -/
  | noSuchController
  /-- A block is presented, or a command started, at a port whose sequencer is `BUSY` or whose last block has not been
  taken (R90, U20). Safe. -/
  | commandWhileBusy
deriving DecidableEq, Repr

/-! The state right after reset (R60 to R62, R265, R267). -/

/-- `TXRQ` = 0 and `TME` = 1 (R60); the fields of R61 hold 0 (DESIGN CHOICE, log 3). -/
def Mailbox.reset : Mailbox :=
  { ti := { stid := 0, exid := 0, ide := false, rtr := false, txrq := false }
    dlc := 0
    tgt := false
    tdl := 0
    tdh := 0
    rqcp := false
    txok := false
    abrq := false
    tme := true }

/-- An empty FIFO with every field of `RF[f]` at 0 (R60). -/
def RxFifo.reset : RxFifo := { queue := [], full := false, fovr := false }

/-- `MCR` after reset (R60): the controller is asked to sleep. -/
def McrReg.reset : McrReg :=
  { inrq := false, sleep := true, txfp := false, rflm := false, nart := false, awum := false, abom := false }

/-- `MSR` after reset (R60). -/
def MsrReg.reset : MsrReg := { inak := false, slak := true }

/-- `BTR` after reset (R60). -/
def btrReset : Word := 0x01230000

/-- The sequencer at power-on (R62, R267): `IDLE`, not initialised; the rest is a DESIGN CHOICE (log 6). -/
def Seq.powerOn : Seq :=
  { phase := .idle
    operands := ⟨0, 0, 0, 0, 0⟩
    sel := .m0
    tick := 0
    latch := ⟨0, 0, 0, 0, 0, 0⟩
    inited := false
    trace := [] }

/-- A controller instance at power-on (R60, R267). -/
def Ctrl.powerOn : Ctrl :=
  { mcr := .reset
    msr := .reset
    btr := btrReset
    mb0 := .reset
    mb1 := .reset
    mb2 := .reset
    rf0 := .reset
    rf1 := .reset
    seq := .powerOn
    cmd := none
    resp := ⟨0, 0, 0, 0, 0⟩ }

/-- The filter block at power-on (R62); `FR1` and `FR2` hold 0 (DESIGN CHOICE, log 3). -/
def Filters.powerOn : Filters :=
  { finit := true
    fm1r := 0
    fs1r := 0
    ffa1r := 0
    fa1r := 0
    fr1 := Vector.replicate 28 0
    fr2 := Vector.replicate 28 0 }

/-- The system at power-on (R267): every instance reset, every sequencer idle, no command presented. -/
def State.reset : State :=
  { cfg := Config.default
    primary := .powerOn
    secondary := .powerOn
    flt := .powerOn
    active := .primary
    env := []
    draws := 0
    codec := none }

end Sys2Proof.Machine
end

