-- ==== Sys2Proof/Machine/Flags.lean ====
section
/-! DEFINITION. Status codes (30_encoding.md R98), register images of the flag registers (10_state.md R34 to R44), and
every flag computation: the side effects of `TXRQ` and `ABRQ` (R216, R219), completion (R217, R218), the FIFO flags
(R164, R229, R230) and the modes (R226, R252). -/

namespace Sys2Proof.Machine

/-- The status of a command (R98, R240). -/
inductive Status where
  | ok
  | bufferExhausted
  | configurationFailed
  | invalidFrame
  | timeout
  | illegalCommand
deriving DecidableEq, Repr

/-- The value of `S0[2:0]` (R98); the other bits of `S0` are 0 (R99). -/
def Status.code : Status → Word
  | .ok => 0
  | .bufferExhausted => 1
  | .configurationFailed => 2
  | .invalidFrame => 3
  | .timeout => 4
  | .illegalCommand => 5

/-- `FieldWrite` of bit `b` of a register with one bit per bank (R44, R76). -/
def setBit (r : BitVec 28) (b : Nat) (v : Bool) : BitVec 28 :=
  if v then r ||| (1#28 <<< b) else r &&& ~~~(1#28 <<< b)

/-! ## Transmit flags (R34) -/

/-- Setting `TXRQ` (R216): the request clears `TME`, `RQCP` and `TXOK` in the same step. -/
def Mailbox.request (m : Mailbox) : Mailbox :=
  { m with ti := { m.ti with txrq := true }, tme := false, rqcp := false, txok := false }

/-- Setting `ABRQ` (R219): without effect on an empty mailbox. -/
def Mailbox.abort (m : Mailbox) : Mailbox := { m with abrq := m.abrq || m.ti.txrq }

/-- BUS ends a request (R217 with `sent`, R218 without): the mailbox is empty again and the abort request is over. -/
def Mailbox.conclude (sent : Bool) (m : Mailbox) : Mailbox :=
  { m with ti := { m.ti with txrq := false }, tme := true, rqcp := true, txok := sent, abrq := false }

/-- The completion test of step T8 (R148): all three bits. -/
def Mailbox.done (m : Mailbox) : Bool := m.rqcp && m.txok && m.tme

/-- The bits of one mailbox in `TSR` (R34). -/
def Mailbox.tsrBits (i : Nat) (m : Mailbox) : Word :=
  flagBit (8 * i) m.rqcp ||| flagBit (8 * i + 1) m.txok ||| flagBit (8 * i + 7) m.abrq ||| flagBit (26 + i) m.tme

/-- The modelled bits of `TSR` (R34); a read draws the others (R63). -/
def tsrMask : Word := 0x1C838383

/-- `TSR` as a read shows it, with the bits that are not modelled taken from `junk` (R34, R63). -/
def tsrWord (m0 m1 m2 : Mailbox) (junk : Word) : Word :=
  m0.tsrBits 0 ||| m1.tsrBits 1 ||| m2.tsrBits 2 ||| (junk &&& ~~~tsrMask)

/-! ## Receive flags (R35, R50, R51) -/

/-- `FMP`: the number of entries queued (R35, R51). -/
def RxFifo.fmp (q : RxFifo) : Nat := q.queue.length

/-- `RF[f]` as a read shows it: bits [5:0] are modelled, and `RFOM` and bit 2 read 0 (R35); the rest is drawn (R63). -/
def RxFifo.word (q : RxFifo) (junk : Word) : Word :=
  (BitVec.ofNat 2 q.fmp).setWidth 32 ||| flagBit 3 q.full ||| flagBit 4 q.fovr ||| (junk &&& ~~~0x3F#32)

/-- `Release` (R164): the head goes, and both flags are cleared whatever they were. -/
def RxFifo.release (q : RxFifo) : RxFifo := { queue := q.queue.tail, full := false, fovr := false }

/-- BUS-DEPOSIT (R229): the image joins the tail; `FULL` is set when the third entry comes in. -/
def RxFifo.deposit (q : RxFifo) (e : Entry) : RxFifo :=
  { q with queue := q.queue ++ [e], full := q.full || decide (q.queue.length + 1 = fifoDepth) }

/-- BUS-OVERRUN (R230): `FOVR` is set; with `RFLM` the frame is discarded, without it the newest entry is replaced. -/
def RxFifo.overrun (q : RxFifo) (rflm : Bool) (e : Entry) : RxFifo :=
  { q with queue := if rflm then q.queue else q.queue.dropLast ++ [e], fovr := true }

/-! ## Register images of the control and status registers (R22 to R24, R40 to R44) -/

/-- `TI[i]` as a word (R22). -/
def TiReg.word (t : TiReg) : Word :=
  t.stid ++ t.exid ++ BitVec.ofBool t.ide ++ BitVec.ofBool t.rtr ++ BitVec.ofBool t.txrq

/-- The fields of a word written to `TI[i]` (R22, R77). -/
def TiReg.ofWord (w : Word) : TiReg :=
  { stid := w.extractLsb' 21 11
    exid := w.extractLsb' 3 18
    ide := w.getLsbD 2
    rtr := w.getLsbD 1
    txrq := w.getLsbD 0 }

/-- `TDT[i]` as a read shows it (R23): `DLC` and `TGT`, with the rest drawn (R63). -/
def Mailbox.tdtWord (m : Mailbox) (junk : Word) : Word :=
  m.dlc.setWidth 32 ||| flagBit 8 m.tgt ||| (junk &&& ~~~0x10F#32)

/-- `MCR` as a read shows it (R40, R63). -/
def McrReg.word (r : McrReg) (junk : Word) : Word :=
  flagBit 0 r.inrq ||| flagBit 1 r.sleep ||| flagBit 2 r.txfp ||| flagBit 3 r.rflm ||| flagBit 4 r.nart
    ||| flagBit 5 r.awum ||| flagBit 6 r.abom ||| (junk &&& ~~~0x7F#32)

/-- `MSR` as a read shows it (R41, R63). -/
def MsrReg.word (r : MsrReg) (junk : Word) : Word := flagBit 0 r.inak ||| flagBit 1 r.slak ||| (junk &&& ~~~0x3#32)

/-- `FMR` as a read shows it (R43, R63). -/
def fmrWord (finit : Bool) (junk : Word) : Word := flagBit 0 finit ||| (junk &&& ~~~0x1#32)

/-- The bits of `BTR` that are not reserved (R42); the others are ignored on a write and read 0. -/
def btrMask : Word := 0xC37F03FF

/-- `RegWrite(BTR, v)` (R42, R77). -/
def btrWrite (v : Word) : Word := v &&& btrMask

/-! ## Modes (R226, R252) -/

/-- Normal mode (R226): the transmit and receive steps of BUS are enabled only here. -/
def Ctrl.normalMode (k : Ctrl) : Bool := !k.mcr.inrq && !k.msr.inak && !k.msr.slak

/-- Initialisation mode (R252). -/
def Ctrl.initMode (k : Ctrl) : Bool := k.mcr.inrq && k.msr.inak

/-- Sleep mode, the mode after reset (R252). -/
def Ctrl.sleepMode (k : Ctrl) : Bool := k.mcr.sleep && k.msr.slak

/-- The loopback flag `LBKM` of `BTR` (R42). -/
def Ctrl.lbkm (k : Ctrl) : Bool := k.btr.getLsbD 30

/-- The silent flag `SILM` of `BTR` (R42). -/
def Ctrl.silm (k : Ctrl) : Bool := k.btr.getLsbD 31

end Sys2Proof.Machine
end

