-- ==== Sys2Proof/Machine/Operands.lean ====
section
/-! DEFINITION. Every value that a command assembles from its operands: identifier images (30_encoding.md R100), lane
masks (R101), the filter registers (43_filter.md R180, R181) and the bit-timing image (44_init.md R204); and the values
BUS assembles: the stored image (45_bus_engine.md R234) and the acceptance test (R231). -/

namespace Sys2Proof.Machine

/-- `IdImage(id, rtr)` (R100): the value of an identifier register with bit 0 clear. -/
def idImage : Identifier → Bool → Word
  | .base n, rtr => (n.setWidth 32 <<< 21) ||| flagBit 1 rtr
  | .ext n, rtr => (n.setWidth 32 <<< 3) ||| flagBit 2 true ||| flagBit 1 rtr

/-- The identifier that an identifier register holds (R126): every word holds one. -/
def imageId (ri : Word) : Identifier :=
  if ri.getLsbD 2 then .ext (ri.extractLsb' 3 29) else .base (ri.extractLsb' 21 11)

/-- `LaneMask(m)` (R101); `m` is a natural number, so `m - 4` below 0 is 0 and gives no lane. -/
def laneMask : Nat → Word
  | 0 => 0
  | 1 => 0xFF
  | 2 => 0xFFFF
  | 3 => 0xFFFFFF
  | _ + 4 => 0xFFFFFFFF

/-- `Fr1` (R180, R181). -/
def fr1Value (op : FilterOp) : Word :=
  match op.scale with
  | .s32 => op.idHigh ++ op.idLow
  | .s16 => op.maskLow ++ op.idLow

/-- `Fr2` (R180, R181): at 32-bit scale the source's formula names `mask_high` twice, and `mask_low` is not used. -/
def fr2Value (op : FilterOp) : Word :=
  match op.scale with
  | .s32 => op.maskHigh ++ op.maskHigh
  | .s16 => op.maskHigh ++ op.idHigh

/-- The range test of step I0 (R201, R202). -/
def timingValid (op : InitOp) : Bool :=
  decide (1 ≤ op.prescaler.toNat ∧ op.prescaler.toNat ≤ 1024) && decide (1 ≤ op.sjw.toNat ∧ op.sjw.toNat ≤ 4)
    && decide (1 ≤ op.seg1.toNat ∧ op.seg1.toNat ≤ 16) && decide (1 ≤ op.seg2.toNat ∧ op.seg2.toNat ≤ 8)

/-- `BtrImage` (R204): each timing number is stored minus one. -/
def btrImage (op : InitOp) : Word :=
  flagBit 31 op.silent ||| flagBit 30 op.loopback ||| (BitVec.ofNat 32 (op.sjw.toNat - 1) <<< 24)
    ||| (BitVec.ofNat 32 (op.seg2.toNat - 1) <<< 20) ||| (BitVec.ofNat 32 (op.seg1.toNat - 1) <<< 16)
    ||| BitVec.ofNat 32 (op.prescaler.toNat - 1)

/-- The image BUS stores for an arriving frame (R234); bits that carry no frame information come from `junk`. -/
def storedImage (fr : BusFrame) (junk : Junk) : Entry :=
  let lo := if fr.rtr then 0 else laneMask fr.dlc.toNat
  let hi := if fr.rtr then 0 else laneMask (fr.dlc.toNat - 4)
  { ri := idImage fr.id fr.rtr ||| flagBit 0 junk.ri0
    rdt := junk.rdt ++ fr.dlc
    rdl := (fr.lo &&& lo) ||| (junk.lo &&& ~~~lo)
    rdh := (fr.hi &&& hi) ||| (junk.hi &&& ~~~hi) }

/-- `x16` (R231): bits [15:5] the base identifier or bits [28:18] of an extended one, bit 4 the remote tag, bit 3 the
extended tag, bits [2:0] the bits [17:15] of an extended identifier. -/
def x16 : Identifier → Bool → BitVec 16
  | .base n, rtr => n ++ BitVec.ofBool rtr ++ 0#1 ++ 0#3
  | .ext n, rtr => n.extractLsb' 18 11 ++ BitVec.ofBool rtr ++ 1#1 ++ n.extractLsb' 15 3

/-- The default `Match` (R231) of a bank with scale `s32`, mode `list` and registers `a`, `b`. -/
def matchStandard (s32 list : Bool) (a b : Word) (fr : BusFrame) : Bool :=
  let e : Word := 0xFFFFFFFE
  let w := idImage fr.id fr.rtr
  let h := x16 fr.id fr.rtr
  match s32, list with
  | true, false => ((w ^^^ a) &&& b &&& e) == 0
  | true, true => (w &&& e) == (a &&& e) || (w &&& e) == (b &&& e)
  | false, false =>
    ((h ^^^ a.extractLsb' 0 16) &&& a.extractLsb' 16 16) == 0 || ((h ^^^ b.extractLsb' 0 16) &&& b.extractLsb' 16 16) == 0
  | false, true =>
    h == a.extractLsb' 0 16 || h == a.extractLsb' 16 16 || h == b.extractLsb' 0 16 || h == b.extractLsb' 16 16

/-- `Match(b, fr)` (R9, R231) under the parameter's value. -/
def matchBank (rule : MatchRule) (flt : Filters) (b : Fin 28) (fr : BusFrame) : Bool :=
  match rule with
  | .standard => matchStandard (flt.fs1r.getLsbD b) (flt.fm1r.getLsbD b) flt.fr1[b] flt.fr2[b] fr
  | .custom k =>
    Config.customMatch k
      { scale32 := flt.fs1r.getLsbD b
        listMode := flt.fm1r.getLsbD b
        fr1 := flt.fr1[b]
        fr2 := flt.fr2[b]
        idImage := idImage fr.id fr.rtr
        dlc := fr.dlc
        lo := fr.lo
        hi := fr.hi }

/-- Bit `b` of `FFA1R` names FIFO `f` (R44). -/
def Filters.feeds (flt : Filters) (b : Fin 28) (f : Fifo) : Bool := flt.ffa1r.getLsbD b == decide (f = .f1)

/-- An active bank assigned to FIFO `f` matches the frame (R228, R232: every active bank serves every instance). -/
def Filters.accepts (rule : MatchRule) (flt : Filters) (f : Fifo) (fr : BusFrame) : Bool :=
  (List.finRange 28).any fun b => flt.fa1r.getLsbD b && flt.feeds b f && matchBank rule flt b fr

end Sys2Proof.Machine
end

