-- ==== Sys2Proof/Machine/Ops.lean ====
section
/-! DEFINITION. The shared operations: access to the parts of the state, the register map (10_state.md R21, 20_memory.md
R71), the register primitives (00_scope.md R12), ending a command (60_exceptions.md R249), and `Collab.Reset`
(70_reset_and_hazards.md R265, R266). -/

namespace Sys2Proof.Machine

/-- The outcome of a step. -/
abbrev Out := Host.Outcome State Fault Refusal

/-- Go on from a next state; stop at a fault or a refusal. -/
def andThen : Out → (State → Out) → Out
  | .next s, k => k s
  | .fault r, _ => .fault r
  | .refused r, _ => .refused r

/-! ## Parts of the state -/

/-- Mailbox `i` of an instance. -/
def Ctrl.mb (k : Ctrl) : Mb → Mailbox
  | .m0 => k.mb0
  | .m1 => k.mb1
  | .m2 => k.mb2

/-- Change mailbox `i` of an instance. -/
def Ctrl.updMb (k : Ctrl) (i : Mb) (g : Mailbox → Mailbox) : Ctrl :=
  match i with
  | .m0 => { k with mb0 := g k.mb0 }
  | .m1 => { k with mb1 := g k.mb1 }
  | .m2 => { k with mb2 := g k.mb2 }

/-- Receive FIFO `f` of an instance. -/
def Ctrl.rf (k : Ctrl) : Fifo → RxFifo
  | .f0 => k.rf0
  | .f1 => k.rf1

/-- Change receive FIFO `f` of an instance. -/
def Ctrl.updRf (k : Ctrl) (f : Fifo) (g : RxFifo → RxFifo) : Ctrl :=
  match f with
  | .f0 => { k with rf0 := g k.rf0 }
  | .f1 => { k with rf1 := g k.rf1 }

/-- The controller instance `c`. -/
def State.ctrl (s : State) : Inst → Ctrl
  | .primary => s.primary
  | .secondary => s.secondary

/-- Change the controller instance `c`. -/
def State.upd (s : State) (c : Inst) (g : Ctrl → Ctrl) : State :=
  match c with
  | .primary => { s with primary := g s.primary }
  | .secondary => { s with secondary := g s.secondary }

/-- Change the filter block. -/
def State.updFlt (s : State) (g : Filters → Filters) : State := { s with flt := g s.flt }

/-- The instance exists (R260). -/
def State.present (s : State) : Inst → Bool
  | .primary => true
  | .secondary => decide (s.cfg.controllers = .two)

/-- The sequencer runs a command (R56). -/
def Seq.busy (q : Seq) : Bool :=
  match q.phase with
  | .idle => false
  | .init _ _ => true
  | .filter _ _ => true
  | .tx _ _ => true
  | .rx _ _ => true

/-- The sequencer of instance `c` runs a command. -/
def State.busy (s : State) (c : Inst) : Bool := (s.ctrl c).seq.busy

/-- `EXIT_ACK_WAIT[c]` (R9, R206). -/
def State.exitAckWait (s : State) : Inst → Bool
  | .primary => s.cfg.exitAckWaitPrimary
  | .secondary => s.cfg.exitAckWaitSecondary

/-! ## The sequencer record (R56, R57) -/

/-- Change the sequencer record. -/
def Ctrl.updSeq (k : Ctrl) (g : Seq → Seq) : Ctrl := { k with seq := g k.seq }

/-- `FieldWrite` to fields of `MCR` (R40, R76): the other fields keep their values. -/
def Ctrl.updMcr (k : Ctrl) (g : McrReg → McrReg) : Ctrl := { k with mcr := g k.mcr }

/-- `RegWrite(BTR, v)` (R42, R77). -/
def Ctrl.writeBtr (k : Ctrl) (v : Word) : Ctrl := { k with btr := btrWrite v }

/-- `seq.phase <- ph` (R12, R57). -/
def Ctrl.goto (k : Ctrl) (ph : Phase) : Ctrl := { k with seq := { k.seq with phase := ph } }

/-- Record an access of SEQ (R83). -/
def Ctrl.log (k : Ctrl) (a : Access) : Ctrl := { k with seq := { k.seq with trace := k.seq.trace ++ [a] } }

/-- Change the latched register values (R56). -/
def Ctrl.updLatch (k : Ctrl) (g : Latch → Latch) : Ctrl := { k with seq := { k.seq with latch := g k.seq.latch } }

/-- The response block of a status without a frame: `S1` to `S4` are 0 (R99, R242). -/
def statusResp (st : Status) : Resp := ⟨st.code, 0, 0, 0, 0⟩

/-- The response block of `Ok(frame)` (R99). -/
def frameResp (fr : Frame) : Resp :=
  let w := frameWords fr
  ⟨Status.ok.code, w.1, w.2.1, w.2.2.1, w.2.2.2⟩

/-- End the command with a response: the sequencer goes to `IDLE`, the response is written, and nothing is saved or
masked (R57, R249). Every `return` of the step lists is this operation; it is what stands for taking an exception. That
`sel`, `tick`, `latch` and `operands` keep their last values is a DESIGN CHOICE (R56 gives them none; log 33). -/
def Ctrl.finish (k : Ctrl) (r : Resp) : Ctrl := { k with seq := { k.seq with phase := .idle }, resp := r }

/-- `return Ok` and `return Err(E)` of a command that gives no frame (R12, R240). -/
def Ctrl.ret (k : Ctrl) (st : Status) : Ctrl := k.finish (statusResp st)

/-- The answer to a reserved or ill-formed block (R105, R106): the block is gone, the status is `IllegalCommand`, no
access is made and nothing else changes. -/
def Ctrl.illegal (k : Ctrl) : Ctrl :=
  { k with cmd := none, seq := { k.seq with trace := [] }, resp := statusResp .illegalCommand }

/-- Start a well-formed command (R57, R90): the block at the port is taken and latched, and the phase leaves `IDLE`. -/
def Ctrl.start (k : Ctrl) (ph : Phase) : Ctrl :=
  { k with
    cmd := none
    seq := { k.seq with phase := ph, operands := k.cmd.getD k.seq.operands, trace := [] } }

/-! ## The register map (R21, R70, R71, R74) -/

/-- Number of a mailbox. -/
def mbNumber : Mb → Nat
  | .m0 => 0
  | .m1 => 1
  | .m2 => 2

/-- Number of a FIFO. -/
def fifoNumber : Fifo → Nat
  | .f0 => 0
  | .f1 => 1

/-- The offset of a register from its block's base (R21, R71). -/
def Reg.offset : Reg → Nat
  | .mcr _ => 0x000
  | .msr _ => 0x004
  | .tsr _ => 0x008
  | .rf _ f => 0x00C + 4 * fifoNumber f
  | .btr _ => 0x01C
  | .ti _ i => 0x180 + 0x10 * mbNumber i
  | .tdt _ i => 0x184 + 0x10 * mbNumber i
  | .tdl _ i => 0x188 + 0x10 * mbNumber i
  | .tdh _ i => 0x18C + 0x10 * mbNumber i
  | .ri _ f => 0x1B0 + 0x10 * fifoNumber f
  | .rdt _ f => 0x1B4 + 0x10 * fifoNumber f
  | .rdl _ f => 0x1B8 + 0x10 * fifoNumber f
  | .rdh _ f => 0x1BC + 0x10 * fifoNumber f
  | .fmr => 0x200
  | .fm1r => 0x204
  | .fs1r => 0x20C
  | .ffa1r => 0x214
  | .fa1r => 0x21C
  | .fr1 b => 0x240 + 8 * b
  | .fr2 b => 0x244 + 8 * b

/-- The instance whose block holds a register: the filter block lies in the primary's (R21, R70). -/
def Reg.home : Reg → Inst
  | .mcr c => c
  | .msr c => c
  | .tsr c => c
  | .rf c _ => c
  | .btr c => c
  | .ti c _ => c
  | .tdt c _ => c
  | .tdl c _ => c
  | .tdh c _ => c
  | .ri c _ => c
  | .rdt c _ => c
  | .rdl c _ => c
  | .rdh c _ => c
  | .fmr => .primary
  | .fm1r => .primary
  | .fs1r => .primary
  | .ffa1r => .primary
  | .fa1r => .primary
  | .fr1 _ => .primary
  | .fr2 _ => .primary

/-- A register that exists: the bank of `FR1` and `FR2` is below 28 (R48, R71). -/
def Reg.valid : Reg → Bool
  | .fr1 b => decide (b < nBanks)
  | .fr2 b => decide (b < nBanks)
  | _ => true

/-- `CAN_BASE[c]` (R9). -/
def canBase (g : Config) : Inst → Word
  | .primary => g.canBasePrimary
  | .secondary => g.canBaseSecondary

/-- The effective address of a register (R71). That a sum past 32 bits wraps is a DESIGN CHOICE (log 34). -/
def Reg.address (g : Config) (r : Reg) : Word := canBase g r.home + BitVec.ofNat 32 r.offset

/-- The value a read of a register shows (R25 to R27, R34 to R48), with the bits that are not modelled taken from `junk`
(R63); `none` for a window register of an empty FIFO (R25). -/
def State.regView (s : State) (junk : Word) : Reg → Option Word
  | .mcr c => some ((s.ctrl c).mcr.word junk)
  | .msr c => some ((s.ctrl c).msr.word junk)
  | .tsr c => some (tsrWord (s.ctrl c).mb0 (s.ctrl c).mb1 (s.ctrl c).mb2 junk)
  | .rf c f => some (((s.ctrl c).rf f).word junk)
  | .btr c => some (s.ctrl c).btr
  | .ti c i => some ((s.ctrl c).mb i).ti.word
  | .tdt c i => some (((s.ctrl c).mb i).tdtWord junk)
  | .tdl c i => some ((s.ctrl c).mb i).tdl
  | .tdh c i => some ((s.ctrl c).mb i).tdh
  | .ri c f => ((s.ctrl c).rf f).queue.head?.map Entry.ri
  | .rdt c f => ((s.ctrl c).rf f).queue.head?.map Entry.rdt
  | .rdl c f => ((s.ctrl c).rf f).queue.head?.map Entry.rdl
  | .rdh c f => ((s.ctrl c).rf f).queue.head?.map Entry.rdh
  | .fmr => some (fmrWord s.flt.finit junk)
  | .fm1r => some (s.flt.fm1r.setWidth 32)
  | .fs1r => some (s.flt.fs1r.setWidth 32)
  | .ffa1r => some (s.flt.ffa1r.setWidth 32)
  | .fa1r => some (s.flt.fa1r.setWidth 32)
  | .fr1 b => s.flt.fr1[b]?
  | .fr2 b => s.flt.fr2[b]?

/-- `RegRead(r)` by the SEQ of instance `c` (R12, R75): one access without a side effect; the value goes to `k`. A
window register of an empty FIFO has no value to read (R25, U12). -/
def regRead (c : Inst) (r : Reg) (s : State) (k : Word → State → Out) : Out :=
  match s.regView (Config.freeWord s.draws) r with
  | none => .fault .windowEmpty
  | some v => k v (({ s with draws := s.draws + 1 } : State).upd c (·.log (.R r)))

/-- `RegWrite` of `FR1[b]` and `FR2[b]` (R48, R77); an index outside the bank table is never formed (R71). -/
def setReg (v : Vector Word 28) (b : Nat) (w : Word) : Vector Word 28 := v.setIfInBounds b w

/-! ## `Collab.Reset` (R258, R265, R266) -/

/-- A mailbox after `Collab.Reset`: the fields of R60 at their values, the fields of R61 unspecified again, drawn from
the free values from `n` on (log 4). -/
def Mailbox.afterReset (n : Nat) : Mailbox :=
  { ti := { TiReg.ofWord (Config.freeWord n) with txrq := false }
    dlc := (Config.freeWord (n + 1)).extractLsb' 0 4
    tgt := (Config.freeWord (n + 1)).getLsbD 8
    tdl := Config.freeWord (n + 2)
    tdh := Config.freeWord (n + 3)
    rqcp := false
    txok := false
    abrq := false
    tme := true }

/-- `Collab.Reset` of one instance (R265): every register at the value of R60, both queues empty, the registers of R61
unspecified. The sequencer record and the command port are no registers (R62). Twelve free values are drawn. -/
def Ctrl.afterReset (k : Ctrl) (n : Nat) : Ctrl :=
  { k with
    mcr := .reset
    msr := .reset
    btr := btrReset
    mb0 := .afterReset n
    mb1 := .afterReset (n + 4)
    mb2 := .afterReset (n + 8)
    rf0 := .reset
    rf1 := .reset }

/-- Reset of the filter block (R62, R266), with `FR1` and `FR2` unspecified (R61). 56 free values are drawn. -/
def Filters.afterReset (n : Nat) : Filters :=
  { finit := true
    fm1r := 0
    fs1r := 0
    ffa1r := 0
    fa1r := 0
    fr1 := Vector.ofFn fun b => Config.freeWord (n + b)
    fr2 := Vector.ofFn fun b => Config.freeWord (n + 28 + b) }

/-- The primary and the filter block reset: what both values of `PRIMARY_RESET_SCOPE` have in common (R266). -/
def State.resetPrimary (s : State) : State :=
  { s with
    primary := s.primary.afterReset s.draws
    flt := .afterReset (s.draws + 12)
    draws := s.draws + 68 }

/-- The secondary reset as well (R266): its `inited` becomes false. -/
def State.resetSecondary (s : State) : State :=
  { s with
    secondary :=
      let k := s.secondary.afterReset s.draws
      { k with seq := { k.seq with inited := false } }
    draws := s.draws + 12 }

/-- `Collab.Reset(PRIMARY_RESET_SCOPE)` (R203, R266). Under `ALL_INSTANCES` a running secondary command makes it a fault
(R277, U21); a system of one instance has no secondary to reset (log 30). -/
def collabReset (s : State) : Out :=
  match s.cfg.primaryResetScope with
  | .primaryAndFilters => .next s.resetPrimary
  | .allInstances =>
    if s.present .secondary then
      if s.busy .secondary then .fault .resetUnderCommand else .next s.resetPrimary.resetSecondary
    else .next s.resetPrimary

end Sys2Proof.Machine
end

