-- ==== Sys2Proof/Machine/Bus.lean ====
section
/-! DEFINITION. The steps of agent BUS (45_bus_engine.md): a guard and an effect each. -/

namespace Sys2Proof.Machine

/-- The guard of a transmit step that sends (R217), with the silent flag (R236; log 10): a controller that drives nothing
onto the bus completes no request unless it is in loopback. -/
def Ctrl.canSend (k : Ctrl) (i : Mb) : Bool := k.normalMode && (k.mb i).ti.txrq && (!k.silm || k.lbkm)

/-- The guard of a transmit step that ends a request unsent (R218). -/
def Ctrl.canEnd (k : Ctrl) (i : Mb) : Bool := k.normalMode && (k.mb i).ti.txrq && ((k.mb i).abrq || k.mcr.nart)

/-- Reception of a frame into FIFO `f` of instance `c` is possible (R226, R228). -/
def State.canReceive (s : State) (c : Inst) (f : Fifo) (fr : BusFrame) : Bool :=
  (s.ctrl c).normalMode && !s.flt.finit && s.flt.accepts s.cfg.matchRule f fr

/-- A step of the BUS of instance `c`: `none` when its guard does not hold. -/
def busStep (c : Inst) (e : BusStep) (s : State) : Option State :=
  let k := s.ctrl c
  match e with
  | .inakSet =>
    if k.mcr.inrq && !k.mcr.sleep && !k.msr.inak then some (s.upd c fun k => { k with msr := { k.msr with inak := true } })
    else none
  | .inakClr =>
    if !k.mcr.inrq && k.msr.inak then some (s.upd c fun k => { k with msr := { k.msr with inak := false } }) else none
  | .slakClr =>
    if !k.mcr.sleep && k.msr.slak then some (s.upd c fun k => { k with msr := { k.msr with slak := false } }) else none
  | .txOk i => if k.canSend i then some (s.upd c fun k => k.updMb i (Mailbox.conclude true)) else none
  | .txEnd i => if k.canEnd i then some (s.upd c fun k => k.updMb i (Mailbox.conclude false)) else none
  | .deposit f fr junk =>
    if s.canReceive c f fr && decide ((k.rf f).queue.length < fifoDepth) then
      some (s.upd c fun k => k.updRf f (·.deposit (storedImage fr junk)))
    else none
  | .overrun f fr junk =>
    if s.canReceive c f fr && decide ((k.rf f).queue.length = fifoDepth) then
      some (s.upd c fun k => k.updRf f (·.overrun k.mcr.rflm (storedImage fr junk)))
    else none

end Sys2Proof.Machine
end

