-- ==== Sys2Proof/Machine/Filter.lean ====
section
/-! DEFINITION. The steps of `CFGFILT` (43_filter.md R176 to R181). -/

namespace Sys2Proof.Machine

/-- A write to `FS1R`, `FM1R`, `FFA1R`, `FR1[b]` or `FR2[b]`: a fault while `FINIT` = 0 (R276, U8; log 14). -/
def writeInInit (s : State) (t : State) : Out := if s.flt.finit then .next t else .fault .filterWriteOutsideInit

/-- One step of `CFGFILT` issued at instance `c` (R176): it acts on the one filter block whichever instance that is
(R184). -/
def filterStep (c : Inst) (op : FilterOp) (at_ : FilterStep) (s : State) : Out :=
  let b := op.bank.toNat
  match at_ with
  | .f0 =>
    if nBanks ≤ b then .next (s.upd c fun k => k.ret .configurationFailed)
    else .next (s.upd c fun k => k.goto (.filter op .f1))
  | .f1 =>
    .next ((s.updFlt fun g => { g with finit := true }).upd c fun k =>
      (k.log (.F .fmr [.finit])).goto (.filter op .f2))
  | .f2 =>
    if s.cfg.unsupportedCombo.contains (op.scale, op.mode) then
      .next ((s.updFlt fun g => { g with finit := false }).upd c fun k =>
        (k.log (.F .fmr [.finit])).ret .configurationFailed)
    else .next (s.upd c fun k => k.goto (.filter op .f3))
  | .f3 =>
    .next ((s.updFlt fun g => { g with fa1r := setBit g.fa1r b false }).upd c fun k =>
      (k.log (.F .fa1r [.bank b])).goto (.filter op .f4))
  | .f4 =>
    writeInInit s ((s.updFlt fun g => { g with fs1r := setBit g.fs1r b (decide (op.scale = .s32)) }).upd c fun k =>
      (k.log (.F .fs1r [.bank b])).goto (.filter op .f5))
  | .f5 =>
    writeInInit s ((s.updFlt fun g => { g with fm1r := setBit g.fm1r b (decide (op.mode = .list)) }).upd c fun k =>
      (k.log (.F .fm1r [.bank b])).goto (.filter op .f6))
  | .f6 =>
    writeInInit s ((s.updFlt fun g => { g with ffa1r := setBit g.ffa1r b (decide (op.fifo = .f1)) }).upd c fun k =>
      (k.log (.F .ffa1r [.bank b])).goto (.filter op .f7a))
  | .f7a =>
    writeInInit s ((s.updFlt fun g => { g with fr1 := setReg g.fr1 b (fr1Value op) }).upd c fun k =>
      (k.log (.W (.fr1 b))).goto (.filter op .f7b))
  | .f7b =>
    writeInInit s ((s.updFlt fun g => { g with fr2 := setReg g.fr2 b (fr2Value op) }).upd c fun k =>
      (k.log (.W (.fr2 b))).goto (.filter op .f8))
  | .f8 =>
    if op.enable then
      .next ((s.updFlt fun g => { g with fa1r := setBit g.fa1r b true }).upd c fun k =>
        (k.log (.F .fa1r [.bank b])).goto (.filter op .f9))
    else .next (s.upd c fun k => k.goto (.filter op .f9))
  | .f9 =>
    .next ((s.updFlt fun g => { g with finit := false }).upd c fun k => (k.log (.F .fmr [.finit])).ret .ok)

end Sys2Proof.Machine
end

