-- ==== Sys2Proof/Machine/Init.lean ====
section
/-! DEFINITION. The steps of `INIT` (44_init.md R201 to R206). -/

namespace Sys2Proof.Machine

/-- The five behaviour flags of step I5 (R201, R204), which leave `INRQ` and `SLEEP` as they are. -/
def applyFlags (op : InitOp) (r : McrReg) : McrReg :=
  { r with
    txfp := op.txFifoPriority
    rflm := op.rxFifoLock
    nart := op.noAutoRetransmit
    awum := op.autoWakeup
    abom := op.autoBusOff }

/-- One step of `INIT` on instance `c` (R201). `Collab.ClockEnable` has no effect on the state (R258). An `await` step
reads `MSR` once and stays where it is until the condition holds (R12, R57). -/
def initStep (c : Inst) (op : InitOp) (at_ : InitStep) (s : State) : Out :=
  match at_ with
  | .i0 =>
    if timingValid op then .next (s.upd c fun k => k.goto (.init op .i1))
    else .next (s.upd c fun k => k.ret .configurationFailed)
  | .i1 => .next (s.upd c fun k => (k.updSeq ({ · with inited := false })).goto (.init op .i2))
  | .i2 =>
    match c with
    | .primary => andThen (collabReset s) fun t => .next (t.upd .primary fun k => k.goto (.init op .i3))
    | .secondary => .next (s.upd .secondary fun k => k.goto (.init op .i3))
  | .i3 =>
    .next (s.upd c fun k =>
      ((k.updMcr ({ · with inrq := true, sleep := false })).log (.F (.mcr c) [.inrq, .sleep])).goto (.init op .i4))
  | .i4 =>
    regRead c (.msr c) s fun _ t =>
      if (t.ctrl c).msr.inak then .next (t.upd c fun k => k.goto (.init op .i5)) else .next t
  | .i5 =>
    .next (s.upd c fun k =>
      ((k.updMcr (applyFlags op)).log (.F (.mcr c) [.txfp, .rflm, .nart, .awum, .abom])).goto (.init op .i6))
  | .i6 => .next (s.upd c fun k => ((k.writeBtr (btrImage op)).log (.W (.btr c))).goto (.init op .i7))
  | .i7 =>
    .next (s.upd c fun k => ((k.updMcr ({ · with inrq := false })).log (.F (.mcr c) [.inrq])).goto (.init op .i8))
  | .i8 =>
    if s.exitAckWait c then
      regRead c (.msr c) s fun _ t =>
        if (t.ctrl c).msr.inak then .next t else .next (t.upd c fun k => k.goto (.init op .i9))
    else .next (s.upd c fun k => k.goto (.init op .i9))
  | .i9 => .next (s.upd c fun k => (k.updSeq ({ · with inited := true })).ret .ok)

end Sys2Proof.Machine
end

