-- ==== Sys2Proof/Machine/Codec.lean ====
section
/-! DEFINITION. The frame codec (40_codec.md): the pure functions ENCODE and DECODE, and their meanings as rows of the
opcode table. -/

namespace Sys2Proof.Machine

/-- `ENCODE` (R120 to R123); `none` is `Err(InvalidFrame)`. A Remote Frame writes `DLC` = 0 and no data registers;
that `tdl` and `tdh` of its image are 0 is a DESIGN CHOICE (R120 gives them none; log 32). -/
def encodeFrame : Frame → Option Image
  | .data id len bytes =>
    if 8 < len then none
    else some
      { ti := idImage id false
        dlc := BitVec.ofNat 4 len
        hasData := true
        tdl := payloadLow len bytes
        tdh := payloadHigh len bytes }
  | .remote id => some { ti := idImage id true, dlc := 0, hasData := false, tdl := 0, tdh := 0 }

/-- `DECODE` (R125 to R128); `none` is `Err(InvalidFrame)`. The length field of a Remote Frame is not consulted. -/
def decodeFrame (ri rdt rdl rdh : Word) : Option Frame :=
  if ri.getLsbD 1 then some (.remote (imageId ri))
  else
    let len := (rdt.extractLsb' 0 4).toNat
    if 8 < len then none else some (.data (imageId ri) len ((laneBytes rdl rdh).take len))

/-- `ENCODE` run by itself: a pure function, whose value goes to the model's own field `codec` (R120; log 19). -/
def execEncode (fr : Frame) (s : State) : Out := .next { s with codec := some (.encoded (encodeFrame fr)) }

/-- `DECODE` run by itself: a pure function, whose value goes to the model's own field `codec` (R125; log 19). -/
def execDecode (ri rdt rdl rdh : Word) (s : State) : Out :=
  .next { s with codec := some (.decoded (decodeFrame ri rdt rdl rdh)) }

end Sys2Proof.Machine
end

