-- ==== Sys2Proof/Machine/Receive.lean ====
section
/-! DEFINITION. The steps of `RX` (42_receive.md R161 to R166). -/

namespace Sys2Proof.Machine

/-- `Release(c, f)` (R164): one access, with its whole effect in that step. -/
def Ctrl.releaseFifo (k : Ctrl) (c : Inst) (f : Fifo) : Ctrl :=
  (k.updRf f RxFifo.release).log (.F (.rf c f) [.rfom, .fovr, .full])

/-- Step X1 once `RF[f]` is read (R161, R162): only `FMP` counts. -/
def Ctrl.checkPending (k : Ctrl) (f : Fifo) (rf : Word) : Ctrl :=
  let l := k.updLatch ({ · with rf := rf })
  if (k.rf f).fmp = 0 then l.ret .bufferExhausted else l.goto (.rx f .x2)

/-- One step of `RX` on FIFO `f` of instance `c` (R161). -/
def rxStep (c : Inst) (f : Fifo) (at_ : RxStep) (s : State) : Out :=
  match at_ with
  | .x1 => regRead c (.rf c f) s fun v t => .next (t.upd c fun k => k.checkPending f v)
  | .x2 =>
    regRead c (.ri c f) s fun v t => .next (t.upd c fun k => (k.updLatch ({ · with ri := v })).goto (.rx f .x3))
  | .x3 =>
    regRead c (.rdt c f) s fun v t => .next (t.upd c fun k => (k.updLatch ({ · with rdt := v })).goto (.rx f .x4))
  | .x4 =>
    regRead c (.rdl c f) s fun v t => .next (t.upd c fun k => (k.updLatch ({ · with rdl := v })).goto (.rx f .x5))
  | .x5 =>
    regRead c (.rdh c f) s fun v t => .next (t.upd c fun k => (k.updLatch ({ · with rdh := v })).goto (.rx f .x6))
  | .x6 =>
    let l := (s.ctrl c).seq.latch
    match decodeFrame l.ri l.rdt l.rdl l.rdh with
    | none =>
      .next (s.upd c fun k =>
        (if s.cfg.rxReleaseOnInvalid then k.releaseFifo c f else k).ret .invalidFrame)
    | some fr => .next (s.upd c fun k => k.goto (.rx f (.x7 fr)))
  | .x7 fr => .next (s.upd c fun k => (k.releaseFifo c f).finish (frameResp fr))

end Sys2Proof.Machine
end

