-- ==== Sys2Proof/Machine/Transmit.lean ====
section
/-! DEFINITION. The steps of `TX` (41_transmit.md R141 to R149). -/

namespace Sys2Proof.Machine

/-- The arbiter (R142): the first empty mailbox in the order 0, 1, 2, by `TME` alone. -/
def Ctrl.firstEmpty (k : Ctrl) : Option Mb :=
  if k.mb0.tme then some .m0 else if k.mb1.tme then some .m1 else if k.mb2.tme then some .m2 else none

/-- Step T1 once `TSR` is read (R141 to R143): choose a mailbox, or fail without a write. -/
def Ctrl.arbitrate (k : Ctrl) (fr : Frame) (tsr : Word) : Ctrl :=
  let l := k.updLatch ({ · with tsr := tsr })
  match k.firstEmpty with
  | none => l.ret .bufferExhausted
  | some i => (l.updSeq ({ · with sel := i })).goto (.tx fr .t2)

/-- Step T8 once `TSR` is read (R148, R152 (a)): the completion test comes before the budget test. -/
def Ctrl.poll (k : Ctrl) (i : Mb) (fr : Frame) (budget : Nat) (tsr : Word) : Ctrl :=
  let l := (k.updLatch ({ · with tsr := tsr })).updSeq ({ · with tick := k.seq.tick + 1 })
  if (k.mb i).done then l.ret .ok else if k.seq.tick + 1 < budget then l else l.goto (.tx fr .t9)

/-- One step of `TX` on instance `c` (R141); the mailbox of steps T3 to T9 is the one latched in `sel`. -/
def txStep (c : Inst) (fr : Frame) (at_ : TxStep) (s : State) : Out :=
  let i := (s.ctrl c).seq.sel
  match at_ with
  | .t1 => regRead c (.tsr c) s fun v t => .next (t.upd c fun k => k.arbitrate fr v)
  | .t2 =>
    match encodeFrame fr with
    | none => .next (s.upd c fun k => k.ret .invalidFrame)
    | some img => .next (s.upd c fun k => k.goto (.tx fr (.t3 img)))
  | .t3 img =>
    .next (s.upd c fun k =>
      ((k.updMb i ({ · with ti := TiReg.ofWord img.ti })).log (.W (.ti c i))).goto (.tx fr (.t4 img)))
  | .t4 img =>
    .next (s.upd c fun k =>
      ((k.updMb i ({ · with dlc := img.dlc })).log (.F (.tdt c i) [.dlc])).goto
        (.tx fr (if img.hasData then .t5a img else .t6)))
  | .t5a img =>
    .next (s.upd c fun k =>
      ((k.updMb i ({ · with tdl := img.tdl })).log (.W (.tdl c i))).goto (.tx fr (.t5b img)))
  | .t5b img =>
    .next (s.upd c fun k => ((k.updMb i ({ · with tdh := img.tdh })).log (.W (.tdh c i))).goto (.tx fr .t6))
  | .t6 =>
    .next (s.upd c fun k => ((k.updMb i ({ · with tgt := false })).log (.F (.tdt c i) [.tgt])).goto (.tx fr .t7))
  | .t7 =>
    .next (s.upd c fun k =>
      (((k.updMb i Mailbox.request).log (.F (.ti c i) [.txrq])).updSeq ({ · with tick := 0 })).goto (.tx fr .t8))
  | .t8 => regRead c (.tsr c) s fun v t => .next (t.upd c fun k => k.poll i fr t.cfg.txTickBudget v)
  | .t9 =>
    .next (s.upd c fun k => ((k.updMb i Mailbox.abort).log (.F (.tsr c) [.abrq i])).ret .timeout)

end Sys2Proof.Machine
end

