-- ==== Sys2Proof/Machine/Agents.lean ====
section
/-! DEFINITION. The agents and their interleaving (00_scope.md R7, R8; 20_memory.md R78): one step of a SEQ, one turn of
an agent, and the run of one command with the turns of the other agents between its steps. -/

namespace Sys2Proof.Machine

/-- The phase a command starts in (R57); the codec functions are no commands (R2). -/
def startPhase : Instr → Phase
  | .init op => .init op .i0
  | .cfgfilt op => .filter op .f0
  | .tx fr => .tx fr .t1
  | .rx f => .rx f .x1
  | .encode _ => .idle
  | .decode _ _ _ _ => .idle

/-- `INIT` may be issued before the instance is initialised, the other commands may not (R58, R106 (d)). -/
def Phase.needsInit : Phase → Bool
  | .idle => false
  | .init _ _ => false
  | .filter _ _ => true
  | .tx _ _ => true
  | .rx _ _ => true

/-- Issue a command at an idle sequencer (R57, R90, R106 (d)). -/
def Ctrl.issue (k : Ctrl) (ph : Phase) : Ctrl := if ph.needsInit && !k.seq.inited then k.illegal else k.start ph

/-- Issue the block at the port (R90, R105, R106). -/
def Ctrl.issueBlock (k : Ctrl) (b : Block) : Ctrl :=
  match decodeBlock b with
  | .bad _ => k.illegal
  | .ok i => k.issue (startPhase i)

/-- One step of the SEQ of instance `c` (R57): the next numbered step of the running command, or the issue of the block
at the port; an idle sequencer with no block does nothing. -/
def seqStep (c : Inst) (s : State) : Out :=
  match (s.ctrl c).seq.phase with
  | .idle =>
    match (s.ctrl c).cmd with
    | none => .next s
    | some b => .next (s.upd c fun k => k.issueBlock b)
  | .init op at_ => initStep c op at_ s
  | .filter op at_ => filterStep c op at_ s
  | .tx fr at_ => txStep c fr at_ s
  | .rx f at_ => rxStep c f at_ s

/-- HOST presents a block (R90): only to an idle sequencer that has taken the last one (R57, U20). -/
def hostTurn (c : Inst) (b : Block) (s : State) : Out :=
  if s.busy c || (s.ctrl c).cmd.isSome then .refused .commandWhileBusy
  else .next (s.upd c fun k => { k with cmd := some b })

/-- The instance a turn belongs to. -/
def Turn.inst : Turn → Inst
  | .host c _ => c
  | .seq c => c
  | .bus c _ => c

/-- One turn of an agent (R78). A step of BUS whose guard does not hold is not taken (log 9). -/
def turn (t : Turn) (s : State) : Out :=
  if s.present t.inst then
    match t with
    | .host c b => hostTurn c b s
    | .seq c => seqStep c s
    | .bus c e => .next ((busStep c e s).getD s)
  else .refused .noSuchController

/-- The SEQ of instance `c` is at an `await` whose condition does not hold (R201 steps I4 and I8). -/
def State.waiting (s : State) (c : Inst) : Bool :=
  match (s.ctrl c).seq.phase with
  | .init _ .i4 => !(s.ctrl c).msr.inak
  | .init _ .i8 => s.exitAckWait c && (s.ctrl c).msr.inak
  | _ => false

/-- The SEQ of instance `c` goes on while no other agent moves: to the end of its command, or to an `await` that nothing
but BUS can end (R251; log 22). The fuel bounds the number of steps. -/
def runAlone (c : Inst) : Nat → State → Out
  | 0, s => .next s
  | n + 1, s => if s.busy c && !s.waiting c then andThen (seqStep c s) (runAlone c n) else .next s

/-- More steps than a command makes by itself: at most 11 beside the polls of `TX`, which are at most `TX_TICK_BUDGET`,
and at least one (R148, R251). -/
def State.fuel (s : State) : Nat := s.cfg.txTickBudget + 16

/-- The command of instance `c` runs to its end under the turns of the list: they are taken in order while it runs, and
when the list is used up the SEQ goes on alone (log 1). -/
def runTurns (c : Inst) : List Turn → State → Out
  | [], s => runAlone c s.fuel { s with env := [] }
  | t :: ts, s => if s.busy c then andThen (turn t { s with env := ts }) (runTurns c ts) else .next { s with env := t :: ts }

/-- Run a command at the active instance: issue it (R57) and go on to its end. -/
def runCommand (ph : Phase) (s : State) : Out :=
  if s.busy s.active then .refused .commandWhileBusy
  else runTurns s.active s.env (s.upd s.active fun k => k.issue ph)

end Sys2Proof.Machine
end

