-- ==== Sys2Proof/Machine/Commands.lean ====
section
/-! DEFINITION. The meanings of the four commands: each runs its step list at the active instance, with the turns of the
other agents between the steps. -/

namespace Sys2Proof.Machine

/-- `INIT` (R201), from step I0. -/
def execInit (op : InitOp) (s : State) : Out := runCommand (.init op .i0) s

/-- `CFGFILT` (R176), from step F0. -/
def execCfgfilt (op : FilterOp) (s : State) : Out := runCommand (.filter op .f0) s

/-- `TX` (R141), from step T1. -/
def execTx (fr : Frame) (s : State) : Out := runCommand (.tx fr .t1) s

/-- `RX` (R161), from step X1. -/
def execRx (f : Fifo) (s : State) : Out := runCommand (.rx f .x1) s

end Sys2Proof.Machine
end

