-- ==== Sys2Proof/Machine/Dispatch.lean ====
section
/-! DEFINITION. The meaning of every row of spec/opcode_table.json. -/

namespace Sys2Proof.Machine

def exec (i : Instr) (s : State) : Host.Outcome State Fault Refusal :=
  match i with
  | .init op => Sys2Proof.Machine.execInit op s
  | .cfgfilt op => Sys2Proof.Machine.execCfgfilt op s
  | .tx fr => Sys2Proof.Machine.execTx fr s
  | .rx f => Sys2Proof.Machine.execRx f s
  | .encode fr => Sys2Proof.Machine.execEncode fr s
  | .decode ri rdt rdl rdh => Sys2Proof.Machine.execDecode ri rdt rdl rdh s

end Sys2Proof.Machine
end

