-- ==== Sys2Proof/Machine/Step.lean ====
section
/-! DEFINITION. One step of the machine: the active instance's sequencer serves the command at its port. -/

namespace Sys2Proof.Machine

/-- One step. A running command goes on to its end; an idle sequencer takes the block at its port, decodes it (R90, R91)
and runs it, or answers `IllegalCommand` (R105, R106); with no block at the port the next agent takes its turn, and
with no turn to take nothing happens (R72, R267). -/
def step (s : State) : Host.Outcome State Fault Refusal :=
  if !s.cfg.valid then .refused .badParameter
  else if !s.present s.active then .refused .noSuchController
  else if s.busy s.active then runTurns s.active s.env s
  else
    match (s.ctrl s.active).cmd with
    | none =>
      match s.env with
      | [] => .next s
      | t :: ts => turn t { s with env := ts }
    | some b =>
      match decodeBlock b with
      | .bad _ => .next (s.upd s.active fun k => k.illegal)
      | .ok i => exec i s

/-- The state with a table word's block presented at the active instance's port and its sequencer idle, so that the next
step takes and runs it (R90; log 23). -/
def State.withFetchWord (s : State) (nbits w : Nat) : State :=
  s.upd s.active fun k => { k with cmd := some (tableBlock nbits w), seq := { k.seq with phase := .idle } }

end Sys2Proof.Machine
end

