-- ==== Sys2Proof/Safety.lean ====
section
/-! DEFINITION. The terms statements are made in: which states a command can be issued in, which turns leave the command
to itself and its BUS, the invariant of the machine, and the assumption `BUS_HEALTHY` (45_bus_engine.md R222). -/

namespace Sys2Proof.Machine

/-! ## Premises on the state before a command -/

/-- Instance `c` is served and its sequencer is idle, so that a command can be issued (R90). -/
def State.idleAt (s : State) (c : Inst) : Bool := decide (s.active = c) && !s.busy c

/-- Instance `c` is served, idle and initialised, so that `CFGFILT`, `TX` and `RX` are well-formed (R106 (d)). -/
def State.canIssue (s : State) (c : Inst) : Bool := s.idleAt c && (s.ctrl c).seq.inited

/-- A turn of the SEQ of instance `c`, or of any BUS. -/
def Turn.ownOrBus (c : Inst) : Turn → Bool
  | .host _ _ => false
  | .seq d => decide (d = c)
  | .bus _ _ => true

/-- Between the steps of the command of instance `c` only BUS moves, in any way it may: HOST presents nothing and the
other instance's SEQ makes no step. -/
def State.quiet (s : State) (c : Inst) : Bool := s.env.all fun t => t.ownOrBus c && s.present t.inst

/-- No other agent moves before the first step of the SEQ of instance `c`. -/
def State.firstMoveOwn (s : State) (c : Inst) : Bool :=
  match s.env with
  | [] => true
  | t :: _ => decide (t = .seq c)

/-- Step I2 of an `INIT` at instance `c` meets no running secondary command that `ALL_INSTANCES` would reset (U21). -/
def State.resetAllowed (s : State) (c : Inst) : Bool :=
  !(decide (c = .primary) && decide (s.cfg.primaryResetScope = .allInstances) && s.present .secondary && s.busy .secondary)

/-- The fields of a mailbox that only SEQ writes (R28, R237): everything but `TXRQ` and the flags of `TSR`. -/
def Mailbox.contents (m : Mailbox) : Mailbox :=
  { m with ti := { m.ti with txrq := false }, rqcp := false, txok := false, abrq := false, tme := true }

/-- A mailbox holds the image of a frame (R144, R146, R150): `TGT` is clear, and the data registers of a Remote Frame keep
what `old` held (R123). -/
def Mailbox.holds (m : Mailbox) (img : Image) (old : Mailbox) : Prop :=
  ({ m.ti with txrq := false } : TiReg) = TiReg.ofWord img.ti ∧ m.dlc = img.dlc ∧ m.tgt = false ∧
    m.tdl = (if img.hasData then img.tdl else old.tdl) ∧ m.tdh = (if img.hasData then img.tdh else old.tdh)

/-- The response of instance `c` is the given status without a frame. -/
def State.answers (s : State) (c : Inst) (st : Status) : Bool := !s.busy c && decide ((s.ctrl c).resp = ⟨st.code, 0, 0, 0, 0⟩)

/-! ## The invariant -/

/-- The flags of a mailbox: `TME` is 1 exactly when `TXRQ` is 0 (R34); an abort request stands only while the request
does (R219); completion flags stand only on an empty mailbox, and `TXOK` only with `RQCP` (R216 to R218). -/
def Mailbox.inv (m : Mailbox) : Bool :=
  (m.tme == !m.ti.txrq) && (!m.abrq || m.ti.txrq) && (!m.rqcp || m.tme) && (!m.txok || m.rqcp)

/-- The flags of a FIFO (R51): at most three entries, `FULL` exactly with three, `FOVR` only with three (R168 (f)). -/
def RxFifo.inv (q : RxFifo) : Bool :=
  decide (q.queue.length ≤ fifoDepth) && (q.full == decide (q.queue.length = fifoDepth))
    && (!q.fovr || decide (q.queue.length = fifoDepth))

/-- The running `INIT`: from I2 on the instance is not initialised (R58), the acknowledged mode stands at the steps that
write the flags and `BTR` (R252), and after I7 neither initialisation mode nor sleep is requested. -/
def Ctrl.initInv (k : Ctrl) : InitStep → Bool
  | .i0 => true
  | .i1 => true
  | .i2 => !k.seq.inited
  | .i3 => !k.seq.inited
  | .i4 => !k.seq.inited && k.mcr.inrq && !k.mcr.sleep
  | .i5 => !k.seq.inited && k.mcr.inrq && !k.mcr.sleep && k.msr.inak
  | .i6 => !k.seq.inited && k.mcr.inrq && !k.mcr.sleep && k.msr.inak
  | .i7 => !k.seq.inited && k.mcr.inrq && !k.mcr.sleep && k.msr.inak
  | .i8 => !k.seq.inited && !k.mcr.inrq && !k.mcr.sleep
  | .i9 => !k.seq.inited && !k.mcr.inrq && !k.mcr.sleep

/-- The selected mailbox is empty (R142). -/
def Ctrl.selEmpty (k : Ctrl) : Bool := (k.mb k.seq.sel).tme

/-- The running `TX`: the selected mailbox stays empty up to the request (R142), the image is the frame's (R120), and the
tick counter is below the budget while polls remain (R148, R149). -/
def Ctrl.txInv (k : Ctrl) (budget : Nat) (fr : Frame) : TxStep → Bool
  | .t1 => true
  | .t2 => k.selEmpty
  | .t3 img => k.selEmpty && decide (encodeFrame fr = some img)
  | .t4 img => k.selEmpty && decide (encodeFrame fr = some img)
  | .t5a img => k.selEmpty && decide (encodeFrame fr = some img)
  | .t5b img => k.selEmpty && decide (encodeFrame fr = some img)
  | .t6 => k.selEmpty
  | .t7 => k.selEmpty
  | .t8 => decide (k.seq.tick < budget)
  | .t9 => decide (k.seq.tick = budget)

/-- The running `RX`: the window words read so far are those of one entry, the head of the queue (R163). -/
def Ctrl.rxInv (k : Ctrl) (f : Fifo) (at_ : RxStep) : Bool :=
  let l := k.seq.latch
  match at_, (k.rf f).queue with
  | .x1, _ => true
  | _, [] => false
  | .x2, _ :: _ => true
  | .x3, e :: _ => decide (l.ri = e.ri)
  | .x4, e :: _ => decide (l.ri = e.ri ∧ l.rdt = e.rdt)
  | .x5, e :: _ => decide (l.ri = e.ri ∧ l.rdt = e.rdt ∧ l.rdl = e.rdl)
  | .x6, e :: _ => decide (l.ri = e.ri ∧ l.rdt = e.rdt ∧ l.rdl = e.rdl ∧ l.rdh = e.rdh)
  | .x7 fr, e :: _ => decide (decodeFrame e.ri e.rdt e.rdl e.rdh = some fr)

/-- The sequencer agrees with the registers at every step of its command. -/
def Ctrl.phaseInv (k : Ctrl) (budget : Nat) : Bool :=
  match k.seq.phase with
  | .idle => true
  | .init _ at_ => k.initInv at_
  | .filter _ _ => k.seq.inited
  | .tx fr at_ => k.seq.inited && k.txInv budget fr at_
  | .rx f at_ => k.seq.inited && k.rxInv f at_

/-- One controller instance: mailboxes, FIFOs, the reserved bits of `BTR` (R42), the tick counter (R56), the phase; and
an initialised instance requests neither initialisation mode nor sleep (R207, R252). -/
def Ctrl.inv (k : Ctrl) (budget : Nat) : Bool :=
  k.mb0.inv && k.mb1.inv && k.mb2.inv && k.rf0.inv && k.rf1.inv && decide (k.btr &&& ~~~btrMask = 0)
    && decide (k.seq.tick ≤ budget) && (!k.seq.inited || (!k.mcr.inrq && !k.mcr.sleep)) && k.phaseInv budget

/-- The invariant of the machine. -/
def State.inv (s : State) : Bool :=
  s.cfg.valid && s.primary.inv s.cfg.txTickBudget && s.secondary.inv s.cfg.txTickBudget

/-! ## Infinite schedules and `BUS_HEALTHY` (R222) -/

/-- The state after the first `n` turns of a schedule, for as long as no turn stops the machine. -/
def after (sched : Nat → Turn) (s : State) : Nat → Out
  | 0 => .next s
  | n + 1 => andThen (after sched s n) (turn (sched n))

/-- The BUS steps that `BUS_HEALTHY` is about (R222): R217, R218 under an abort request, R224 and R225. -/
def State.duty (s : State) (c : Inst) : BusStep → Bool
  | .inakSet => (busStep c .inakSet s).isSome
  | .inakClr => (busStep c .inakClr s).isSome
  | .slakClr => (busStep c .slakClr s).isSome
  | .txOk i => (busStep c (.txOk i) s).isSome
  | .txEnd i => (busStep c (.txEnd i) s).isSome && ((s.ctrl c).mb i).abrq
  | .deposit _ _ _ => false
  | .overrun _ _ _ => false

/-- `BUS_HEALTHY` for instance `c` (R222): a step of those rules that stays enabled is eventually taken. -/
def BusHealthy (sched : Nat → Turn) (s : State) (c : Inst) : Prop :=
  ∀ (e : BusStep) (n : Nat), ∃ m, n ≤ m ∧
    (sched m = .bus c e ∨ ∀ t, after sched s m = .next t → t.duty c e = false)

/-- The SEQ of instance `c` goes on making steps (R7). -/
def SeqRuns (sched : Nat → Turn) (c : Inst) : Prop := ∀ n, ∃ m, n ≤ m ∧ sched m = .seq c

end Sys2Proof.Machine
end

