-- ==== Sys2Proof/Certificates/Slice0/Obligations.lean ====
section
/-! DEFINITION. The statements for the provers. Each docstring names the rules of spec/ it formalises, and says where a
clause is the model's own choice. -/

open Sys2Proof Sys2Proof.Machine

/-! ## Command blocks (30_encoding.md) -/

/-- Every well-formed instruction is what the decoder reads from its block, with every operand at every value (R91 to
R96, R112). -/
def Obligations.DecodeOfEncodedBlockIsTheInstruction : Prop :=
  ∀ i : Instr, i.wellFormed = true → ∃ b, encodeBlock i = some b ∧ decodeBlock b = .ok i

/-- What the decoder reads from a block encodes to that block again, in every word the command uses; in the payload words
of `TX` the lanes at or above the length are cleared (R91 to R96, R101 `LaneMask`). -/
def Obligations.DecodedBlockEncodesToTheSameWords : Prop :=
  ∀ (b : Block) (i : Instr), decodeBlock b = .ok i →
    i.wellFormed = true ∧ ∃ b', encodeBlock i = some b' ∧ b'.c0 = b.c0 ∧
      (∀ op, i = .init op → b'.c1 = b.c1 ∧ b'.c2 = b.c2) ∧
      (∀ op, i = .cfgfilt op → b'.c1 = b.c1 ∧ b'.c2 = b.c2 ∧ b'.c3 = b.c3) ∧
      (∀ fr, i = .tx fr → b'.c1 = b.c1) ∧
      (∀ id len bytes, i = .tx (.data id len bytes) →
        b'.c2 = b.c2 ∧ b'.c3 = b.c3 &&& laneMask len ∧ b'.c4 = b.c4 &&& laneMask (len - 4))

/-- A block is rejected exactly when its opcode is reserved or it is ill-formed by (a) to (c) of R106 (R92, R105, R106).
That the must-be-zero bits of word 2 are not looked at in a Remote Frame is the model's reading (log 7). -/
def Obligations.BlockIsRejectedExactlyWhenIllFormed : Prop :=
  ∀ b : Block,
    (∃ e, decodeBlock b = .bad e) ↔
      b.c0.extractLsb' 0 4 = 0 ∨ 5 ≤ (b.c0.extractLsb' 0 4).toNat ∨ b.c0.extractLsb' 5 27 ≠ 0 ∨
      (b.c0.extractLsb' 0 4 ≠ 4 ∧ b.c0.getLsbD 4 = true) ∨
      (b.c0.extractLsb' 0 4 = 1 ∧
        (b.c1.extractLsb' 7 25 ≠ 0 ∨ b.c2.getLsbD 11 = true ∨ b.c2.getLsbD 15 = true ∨ b.c2.extractLsb' 21 3 ≠ 0 ∨
          b.c2.extractLsb' 28 4 ≠ 0)) ∨
      (b.c0.extractLsb' 0 4 = 2 ∧ b.c1.extractLsb' 12 20 ≠ 0) ∨
      (b.c0.extractLsb' 0 4 = 3 ∧
        (b.c1.getLsbD 29 = true ∨ (b.c1.getLsbD 31 = false ∧ b.c1.extractLsb' 11 18 ≠ 0) ∨
          (b.c1.getLsbD 30 = false ∧ b.c2.extractLsb' 8 24 ≠ 0)))

/-- A few blocks written out from the tables of R91 to R95 stand for the commands they should (95_test_vectors.md). -/
def Obligations.WrittenOutBlocksDecode : Prop :=
  decodeBlock ⟨0x00000001, 0x00000001, 0x020D1006, 0, 0⟩ =
    .ok (.init ⟨true, false, false, false, false, false, false, 6, 1, 13, 2⟩) ∧
  decodeBlock ⟨0x00000002, 0x00000B1B, 0x24602480, 0x24A024C0, 0⟩ =
    .ok (.cfgfilt ⟨27, .f1, .list, .s16, true, 0x2460, 0x2480, 0x24A0, 0x24C0⟩) ∧
  decodeBlock ⟨0x00000003, 0x9ABCDEF0, 0x00000003, 0xFFCCBBAA, 0⟩ =
    .ok (.tx (.data (.ext 0x1ABCDEF0) 3 [0xAA, 0xBB, 0xCC])) ∧
  decodeBlock ⟨0x00000003, 0x40000123, 0, 0, 0⟩ = .ok (.tx (.remote (.base 0x123))) ∧
  decodeBlock ⟨0x00000014, 0, 0, 0, 0⟩ = .ok (.rx .f1)

/-- A step of an idle, served instance runs exactly the instruction that the block at its port decodes to: the step adds
nothing around it (R90, R91). -/
def Obligations.StepRunsTheDecodedCommand : Prop :=
  ∀ (s : State) (b : Block) (i : Instr),
    s.cfg.valid = true → s.present s.active = true → s.busy s.active = false → (s.ctrl s.active).cmd = some b →
    decodeBlock b = .ok i → step s = exec i s

/-- A block with a reserved opcode is answered with `IllegalCommand` and changes nothing else: no access, no register, not
even `inited` (R105). The block leaves the port and the access record of the model's own is empty (log 27). -/
def Obligations.ReservedOpcodeAnswersIllegalCommand : Prop :=
  ∀ (s : State) (b : Block),
    s.cfg.valid = true → s.present s.active = true → s.busy s.active = false → (s.ctrl s.active).cmd = some b →
    (b.c0.extractLsb' 0 4 = 0 ∨ 5 ≤ (b.c0.extractLsb' 0 4).toNat) →
    step s = .next (s.upd s.active fun k =>
      { k with cmd := none, seq := { k.seq with trace := [] }, resp := ⟨5, 0, 0, 0, 0⟩ })

/-- So is every other block the decoder rejects (R106 (a) to (c); log 27 for the port and the access record). -/
def Obligations.IllFormedBlockAnswersIllegalCommand : Prop :=
  ∀ (s : State) (b : Block) (e : DecodeError),
    s.cfg.valid = true → s.present s.active = true → s.busy s.active = false → (s.ctrl s.active).cmd = some b →
    decodeBlock b = .bad e →
    step s = .next (s.upd s.active fun k =>
      { k with cmd := none, seq := { k.seq with trace := [] }, resp := ⟨5, 0, 0, 0, 0⟩ })

/-- `CFGFILT`, `TX` and `RX` before a successful `INIT` are answered in the same way (R106 (d), R58). That the port is free
again and the access record of the model's own is empty is the model's choice (log 27). -/
def Obligations.CommandBeforeInitAnswersIllegalCommand : Prop :=
  ∀ (s : State) (c : Inst) (i : Instr),
    s.idleAt c = true → (s.ctrl c).seq.inited = false →
    ((∃ op, i = .cfgfilt op) ∨ (∃ fr, i = .tx fr) ∨ (∃ f, i = .rx f)) →
    exec i s = .next (s.upd c fun k =>
      { k with cmd := none, seq := { k.seq with trace := [] }, resp := ⟨5, 0, 0, 0, 0⟩ })

/-! ## The codec (40_codec.md) -/

/-- The identifier part of `ENCODE` (R121): `ti[31:21]` the base identifier with `ti[20:3]` and `ti[2]` clear, or
`ti[31:3]` the extended identifier with `ti[2]` set; `ti[1]` the remote tag; `ti[0]` clear. -/
def Obligations.EncodeWritesTheIdentifierFields : Prop :=
  ∀ (fr : Frame) (img : Image), encodeFrame fr = some img →
    img.ti.getLsbD 0 = false ∧
    (∀ id len bytes, fr = .data id len bytes → img.ti.getLsbD 1 = false ∧
      (∀ n, id = .base n → img.ti.extractLsb' 21 11 = n ∧ img.ti.extractLsb' 3 18 = 0 ∧ img.ti.getLsbD 2 = false) ∧
      (∀ n, id = .ext n → img.ti.extractLsb' 3 29 = n ∧ img.ti.getLsbD 2 = true)) ∧
    (∀ id, fr = .remote id → img.ti.getLsbD 1 = true ∧
      (∀ n, id = .base n → img.ti.extractLsb' 21 11 = n ∧ img.ti.extractLsb' 3 18 = 0 ∧ img.ti.getLsbD 2 = false) ∧
      (∀ n, id = .ext n → img.ti.extractLsb' 3 29 = n ∧ img.ti.getLsbD 2 = true))

/-- `ENCODE` of a Data Frame of length 0 to 8 completes, with the length and each byte in its lane, and 0 in the lanes at or
above the length (R122, R24). It changes nothing but the model's own field that receives the value (log 19). -/
def Obligations.EncodeOfDataFrameCompletes : Prop :=
  ∀ (s : State) (id : Identifier) (len : Nat) (bytes : List Byte), len ≤ 8 →
    ∃ img, exec (.encode (.data id len bytes)) s = .next { s with codec := some (.encoded (some img)) } ∧
      img.dlc.toNat = len ∧ img.hasData = true ∧
      ∀ k, k < 4 →
        img.tdl.extractLsb' (8 * k) 8 = (if k < len then bytes.getD k 0 else 0) ∧
        img.tdh.extractLsb' (8 * k) 8 = (if k + 4 < len then bytes.getD (k + 4) 0 else 0)

/-- `ENCODE` of a Remote Frame completes, with length 0 and no data registers to write; of a Data Frame over 8 bytes it
gives `InvalidFrame` (R123, R120). It changes nothing but the model's own field (log 19). -/
def Obligations.EncodeOfRemoteAndLongFramesCompletes : Prop :=
  (∀ (s : State) (id : Identifier), ∃ img,
    exec (.encode (.remote id)) s = .next { s with codec := some (.encoded (some img)) } ∧
      img.dlc = 0 ∧ img.hasData = false) ∧
  (∀ (s : State) (id : Identifier) (len : Nat) (bytes : List Byte), 8 < len →
    exec (.encode (.data id len bytes)) s = .next { s with codec := some (.encoded none) })

/-- `DECODE` completes on every window: `ri[2]` selects the identifier, `ri[1]` the kind; a Data Frame has `rdt[3:0]` bytes,
each from its lane, and none over 8; a Remote Frame does not consult the length (R125 to R128). It changes nothing but the
model's own field (log 19). -/
def Obligations.DecodeOfEveryWindowCompletes : Prop :=
  ∀ (s : State) (ri rdt rdl rdh : Word), ∃ r,
    exec (.decode ri rdt rdl rdh) s = .next { s with codec := some (.decoded r) } ∧
    ∃ id : Identifier,
      (ri.getLsbD 2 = true → id = .ext (ri.extractLsb' 3 29)) ∧
      (ri.getLsbD 2 = false → id = .base (ri.extractLsb' 21 11)) ∧
      (ri.getLsbD 1 = true → r = some (.remote id)) ∧
      (ri.getLsbD 1 = false → 8 < (rdt.extractLsb' 0 4).toNat → r = none) ∧
      (ri.getLsbD 1 = false → (rdt.extractLsb' 0 4).toNat ≤ 8 →
        ∃ bytes : List Byte, r = some (.data id (rdt.extractLsb' 0 4).toNat bytes) ∧
          bytes.length = (rdt.extractLsb' 0 4).toNat ∧
          ∀ k, k < (rdt.extractLsb' 0 4).toNat →
            bytes.getD k 0 = if k < 4 then rdl.extractLsb' (8 * k) 8 else rdh.extractLsb' (8 * (k - 4)) 8)

/-- The symmetry law (R130): a frame that `ENCODE` accepts comes back from `DECODE`, whatever the bits of the window hold
that carry nothing of it. -/
def Obligations.CodecRoundTrip : Prop :=
  ∀ (fr : Frame) (img : Image) (rdt rdl rdh : Word),
    fr.wellFormed = true → encodeFrame fr = some img → rdt.extractLsb' 0 4 = img.dlc →
    (img.hasData = true → rdl = img.tdl ∧ rdh = img.tdh) →
    decodeFrame img.ti rdt rdl rdh = some fr

/-- What `DECODE` does not look at (R131): `ri[0]`; `ri[20:3]` of a base identifier; of a Data Frame `rdt[31:4]` and the
lanes at or above the length; of a Remote Frame everything but `ri`. -/
def Obligations.DecodeIgnoresTheUnusedBits : Prop :=
  ∀ ri ri' rdt rdt' rdl rdl' rdh rdh' : Word,
    ri.getLsbD 1 = ri'.getLsbD 1 → ri.getLsbD 2 = ri'.getLsbD 2 → ri.extractLsb' 21 11 = ri'.extractLsb' 21 11 →
    (ri.getLsbD 2 = true → ri.extractLsb' 3 18 = ri'.extractLsb' 3 18) →
    (ri.getLsbD 1 = false →
      rdt.extractLsb' 0 4 = rdt'.extractLsb' 0 4 ∧
      rdl &&& laneMask (rdt.extractLsb' 0 4).toNat = rdl' &&& laneMask (rdt.extractLsb' 0 4).toNat ∧
      rdh &&& laneMask ((rdt.extractLsb' 0 4).toNat - 4) = rdh' &&& laneMask ((rdt.extractLsb' 0 4).toNat - 4)) →
    decodeFrame ri rdt rdl rdh = decodeFrame ri' rdt' rdl' rdh'

/-! ## Registers (10_state.md, 20_memory.md) -/

/-- Every register address is a multiple of 4, and two registers of one block lie at different offsets, all below 0x400
(R21, R71, R74). -/
def Obligations.RegisterAddressesAreAlignedAndDistinct : Prop :=
  (∀ (g : Config) (r : Reg), g.valid = true → (r.address g).toNat % 4 = 0) ∧
  (∀ r q : Reg, r.valid = true → q.valid = true → r.home = q.home → r.offset = q.offset → r = q) ∧
  (∀ r : Reg, r.valid = true → r.offset < 0x400)

/-- A register read has no side effect (R75): every register shows the same value after it. -/
def Obligations.RegisterReadsHaveNoSideEffect : Prop :=
  ∀ (s t : State) (c : Inst) (r : Reg), regRead c r s (fun _ u => .next u) = .next t →
    ∀ (q : Reg) (junk : Word), t.regView junk q = s.regView junk q

/-- The bits of `TSR` as a read shows it (R34): the four flags of mailbox `i` at `8i`, `8i+1`, `8i+7` and `26+i`. -/
def Obligations.TsrShowsTheMailboxFlags : Prop :=
  ∀ (s : State) (c : Inst) (junk : Word), ∃ w, s.regView junk (.tsr c) = some w ∧
    ∀ i : Mb,
      w.getLsbD (8 * mbNumber i) = ((s.ctrl c).mb i).rqcp ∧ w.getLsbD (8 * mbNumber i + 1) = ((s.ctrl c).mb i).txok ∧
      w.getLsbD (8 * mbNumber i + 7) = ((s.ctrl c).mb i).abrq ∧ w.getLsbD (26 + mbNumber i) = ((s.ctrl c).mb i).tme

/-- The bits of `RF[f]` as a read shows it (R35, R51): `FMP` the length of the queue, bit 2 and `RFOM` 0, `FULL`, `FOVR`. -/
def Obligations.RfShowsTheFifoFlags : Prop :=
  ∀ (s : State) (c : Inst) (f : Fifo) (junk : Word), ((s.ctrl c).rf f).queue.length ≤ 3 →
    ∃ w, s.regView junk (.rf c f) = some w ∧
      (w.extractLsb' 0 2).toNat = ((s.ctrl c).rf f).queue.length ∧ w.getLsbD 2 = false ∧
      w.getLsbD 3 = ((s.ctrl c).rf f).full ∧ w.getLsbD 4 = ((s.ctrl c).rf f).fovr ∧ w.getLsbD 5 = false

/-- Writing `TI[i]` and reading it back shows the word written, field by field and whole (R22, R77). -/
def Obligations.TiFieldsMakeUpTheWord : Prop :=
  (∀ w : Word, (TiReg.ofWord w).word = w) ∧ (∀ t : TiReg, TiReg.ofWord t.word = t)

/-! ## Reset (10_state.md R60 to R62, 70_reset_and_hazards.md R265 to R267) -/

/-- The power-on values the spec states, as the registers show them (R60, R62, R267). -/
def Obligations.ResetStateShowsTheStatedValues : Prop :=
  (∀ c : Inst,
    let k := State.reset.ctrl c
    State.reset.regView 0 (.mcr c) = some 0x00000002 ∧ State.reset.regView 0 (.msr c) = some 0x00000002 ∧
    State.reset.regView 0 (.tsr c) = some 0x1C000000 ∧ State.reset.regView 0 (.rf c .f0) = some 0 ∧
    State.reset.regView 0 (.rf c .f1) = some 0 ∧ State.reset.regView 0 (.btr c) = some 0x01230000 ∧
    (∀ i, (k.mb i).ti.txrq = false) ∧ (∀ f, (k.rf f).queue = []) ∧ k.seq.phase = .idle ∧ k.seq.inited = false) ∧
  State.reset.regView 0 .fmr = some 1 ∧ State.reset.regView 0 .fm1r = some 0 ∧ State.reset.regView 0 .fs1r = some 0 ∧
  State.reset.regView 0 .ffa1r = some 0 ∧ State.reset.regView 0 .fa1r = some 0

/-- `Collab.Reset` in both scopes (R265, R266): the primary and the filter block at their reset values, whatever was
pending; the secondary untouched in the one scope, reset with `inited` false in the other, and a fault when the secondary
runs a command there (U21). A system of one controller has no secondary to reset (log 30). -/
def Obligations.CollabResetCoversItsScope : Prop :=
  ∀ s : State,
    ((s.cfg.primaryResetScope = .allInstances ∧ s.present .secondary = true ∧ s.busy .secondary = true) →
      collabReset s = .fault .resetUnderCommand) ∧
    (¬(s.cfg.primaryResetScope = .allInstances ∧ s.present .secondary = true ∧ s.busy .secondary = true) →
      ∃ t, collabReset s = .next t ∧
        t.flt.finit = true ∧ t.flt.fm1r = 0 ∧ t.flt.fs1r = 0 ∧ t.flt.ffa1r = 0 ∧ t.flt.fa1r = 0 ∧
        (∀ c, (c = .primary ∨ (s.cfg.primaryResetScope = .allInstances ∧ s.present .secondary = true)) →
          let k := t.ctrl c
          k.mcr = McrReg.reset ∧ k.msr = MsrReg.reset ∧ k.btr = 0x01230000 ∧
          (∀ i, (k.mb i).ti.txrq = false ∧ (k.mb i).tme = true ∧ (k.mb i).rqcp = false ∧ (k.mb i).txok = false ∧
            (k.mb i).abrq = false) ∧
          (∀ f, k.rf f = ⟨[], false, false⟩)) ∧
        t.primary.seq = s.primary.seq ∧
        ((s.cfg.primaryResetScope = .primaryAndFilters ∨ s.present .secondary = false) → t.secondary = s.secondary) ∧
        (s.cfg.primaryResetScope = .allInstances → s.present .secondary = true →
          t.secondary.seq = { s.secondary.seq with inited := false }))

/-! ## INIT (44_init.md) -/

/-- A bit-timing number out of range fails `INIT` at once: no access, no collaborator call, `inited` unchanged (R202). -/
def Obligations.InitRejectsTimingOutOfRange : Prop :=
  ∀ (s : State) (c : Inst) (op : InitOp),
    s.idleAt c = true → s.quiet c = true →
    ¬(1 ≤ op.prescaler.toNat ∧ op.prescaler.toNat ≤ 1024 ∧ 1 ≤ op.sjw.toNat ∧ op.sjw.toNat ≤ 4 ∧
      1 ≤ op.seg1.toNat ∧ op.seg1.toNat ≤ 16 ∧ 1 ≤ op.seg2.toNat ∧ op.seg2.toNat ≤ 8) →
    ∃ t, exec (.init op) s = .next t ∧ t.busy c = false ∧ (t.ctrl c).resp = ⟨2, 0, 0, 0, 0⟩ ∧
      (t.ctrl c).seq.trace = [] ∧ (t.ctrl c).seq.inited = (s.ctrl c).seq.inited ∧ t.flt = s.flt ∧
      ∀ d, (t.ctrl d).mcr = (s.ctrl d).mcr ∧ (t.ctrl d).btr = (s.ctrl d).btr ∧
        ∀ i, ((t.ctrl d).mb i).contents = ((s.ctrl d).mb i).contents

/-- `INIT` with timing in range returns `Ok` when BUS gives its two acknowledgements, the first while it waits at I4, the
second at I8 (R201, R204 to R207): the flags are in `MCR`, each timing number minus one and the two flags are in `BTR`, and
the instance is initialised. On these schedules, where only this instance and its BUS move, the secondary's `INIT` leaves the
filter block, the primary, and its own mailboxes and FIFOs as they are; the primary's leaves the secondary as it is under
`PRIMARY_AND_FILTERS` (R203). Where I8 waits, `INAK` is 0 on the return; where it does not, the command returns before a
late second acknowledgement, with `INAK` still 1 (R206). -/
def Obligations.InitCompletesWhenAcknowledged : Prop :=
  ∀ (s : State) (c : Inst) (op : InitOp) (n m : Nat),
    s.idleAt c = true → s.present c = true → s.resetAllowed c = true →
    1 ≤ op.prescaler.toNat ∧ op.prescaler.toNat ≤ 1024 → 1 ≤ op.sjw.toNat ∧ op.sjw.toNat ≤ 4 →
    1 ≤ op.seg1.toNat ∧ op.seg1.toNat ≤ 16 → 1 ≤ op.seg2.toNat ∧ op.seg2.toNat ≤ 8 → 4 ≤ n → 4 ≤ m →
    s.env = List.replicate n (.seq c) ++ .bus c .inakSet :: (List.replicate m (.seq c) ++ [.bus c .inakClr]) →
    ∃ t, exec (.init op) s = .next t ∧ t.busy c = false ∧ (t.ctrl c).resp = ⟨0, 0, 0, 0, 0⟩ ∧
      (t.ctrl c).seq.inited = true ∧
      (t.ctrl c).mcr = { inrq := false, sleep := false, txfp := op.txFifoPriority, rflm := op.rxFifoLock,
                         nart := op.noAutoRetransmit, awum := op.autoWakeup, abom := op.autoBusOff } ∧
      ((t.ctrl c).btr.extractLsb' 0 10).toNat + 1 = op.prescaler.toNat ∧
      ((t.ctrl c).btr.extractLsb' 16 4).toNat + 1 = op.seg1.toNat ∧
      ((t.ctrl c).btr.extractLsb' 20 3).toNat + 1 = op.seg2.toNat ∧
      ((t.ctrl c).btr.extractLsb' 24 2).toNat + 1 = op.sjw.toNat ∧
      (t.ctrl c).btr.getLsbD 30 = op.loopback ∧ (t.ctrl c).btr.getLsbD 31 = op.silent ∧
      (t.ctrl c).btr &&& ~~~0xC37F03FF#32 = 0 ∧
      (s.exitAckWait c = true → (t.ctrl c).msr.inak = false) ∧
      (s.exitAckWait c = false → 6 ≤ m → (t.ctrl c).msr.inak = true) ∧
      (c = .primary → s.cfg.primaryResetScope = .primaryAndFilters → t.secondary = s.secondary) ∧
      (c = .secondary → t.flt = s.flt ∧ t.primary = s.primary ∧ (∀ i, t.secondary.mb i = s.secondary.mb i) ∧
        ∀ f, t.secondary.rf f = s.secondary.rf f)

/-- Whatever BUS does, an `INIT` with timing in range either returns `Ok` or waits for an acknowledgement with `inited`
false (R201, R205 to R207, R251); no other status and no stop. Where I8 waits, `INAK` is 0 on the return (R206, R207). That
`exec` answers the waiting state, still `BUSY`, once no turn is left, is the model's choice (log 22). -/
def Obligations.InitReturnsOkOrWaits : Prop :=
  ∀ (s : State) (c : Inst) (op : InitOp),
    s.idleAt c = true → s.quiet c = true → s.resetAllowed c = true → timingValid op = true →
    ∃ t, exec (.init op) s = .next t ∧
      ((t.busy c = false ∧ (t.ctrl c).resp = ⟨0, 0, 0, 0, 0⟩ ∧ (t.ctrl c).seq.inited = true ∧
          (t.ctrl c).mcr = { inrq := false, sleep := false, txfp := op.txFifoPriority, rflm := op.rxFifoLock,
                             nart := op.noAutoRetransmit, awum := op.autoWakeup, abom := op.autoBusOff } ∧
          (t.ctrl c).btr = btrImage op ∧ (s.exitAckWait c = true → (t.ctrl c).msr.inak = false)) ∨
        (t.waiting c = true ∧ (t.ctrl c).seq.inited = false))

/-- A hung `INIT` (R251, R281): while BUS does not move, a step of the machine leaves a waiting instance as it is. R12 and
R57 have SEQ repeat its read of `MSR` meanwhile; that the model does not make the repeated reads, so that not even the access
record or the counter of free values changes, is its choice (log 22). -/
def Obligations.WaitingInitStaysUntilBusMoves : Prop :=
  ∀ (s : State), s.cfg.valid = true → s.present s.active = true → s.env = [] → s.waiting s.active = true →
    step s = .next s

/-- The primary's `INIT` that returns `Ok` leaves everything in the reset's scope reset, whatever BUS does (R203, R207, R208 (a),
R265, R266, R277): the filter block in both scopes, so that nothing is received after it; of the primary no request is pending
and no completion reported, and both queues are empty with their flags clear. Where the scope takes in a secondary, the
secondary is reset too and no longer initialised; where it does not, or there is none (log 30), the secondary keeps its
sequencer, its modes, its registers that only SEQ writes and the heads of its queues. -/
def Obligations.PrimaryInitResetsTheFilterBlock : Prop :=
  ∀ (s t : State) (op : InitOp),
    s.idleAt .primary = true → s.quiet .primary = true → timingValid op = true → exec (.init op) s = .next t →
    t.busy .primary = false →
    t.flt.finit = true ∧ t.flt.fm1r = 0 ∧ t.flt.fs1r = 0 ∧ t.flt.ffa1r = 0 ∧ t.flt.fa1r = 0 ∧
    (∀ f fr, t.flt.accepts t.cfg.matchRule f fr = false) ∧
    (∀ c, (c = .primary ∨ (s.cfg.primaryResetScope = .allInstances ∧ s.present .secondary = true)) →
      (∀ i, ((t.ctrl c).mb i).ti.txrq = false ∧ ((t.ctrl c).mb i).tme = true ∧ ((t.ctrl c).mb i).rqcp = false ∧
        ((t.ctrl c).mb i).txok = false ∧ ((t.ctrl c).mb i).abrq = false) ∧
      ∀ f, (t.ctrl c).rf f = ⟨[], false, false⟩) ∧
    (s.cfg.primaryResetScope = .allInstances → s.present .secondary = true →
      t.secondary.mcr = McrReg.reset ∧ t.secondary.msr = MsrReg.reset ∧ t.secondary.btr = 0x01230000 ∧
      t.secondary.seq = { s.secondary.seq with inited := false }) ∧
    (s.cfg.primaryResetScope = .primaryAndFilters ∨ s.present .secondary = false →
      t.secondary.seq = s.secondary.seq ∧ t.secondary.mcr = s.secondary.mcr ∧ t.secondary.btr = s.secondary.btr ∧
      (∀ i, (t.secondary.mb i).contents = (s.secondary.mb i).contents) ∧
      ∀ f e q, (s.secondary.rf f).queue = e :: q → ∃ q', (t.secondary.rf f).queue = e :: q')

/-- The secondary's `INIT` resets nothing (R203, R207, R28): the filter block, the mailboxes' contents of both instances,
the queued frames' heads, and the primary's modes and sequencer stay. -/
def Obligations.SecondaryInitResetsNothing : Prop :=
  ∀ (s t : State) (op : InitOp),
    s.idleAt .secondary = true → s.quiet .secondary = true → exec (.init op) s = .next t →
    t.flt = s.flt ∧ t.primary.seq = s.primary.seq ∧ t.primary.mcr = s.primary.mcr ∧ t.primary.btr = s.primary.btr ∧
    ∀ d, (∀ i, ((t.ctrl d).mb i).contents = ((s.ctrl d).mb i).contents) ∧
      (∀ f e q, ((s.ctrl d).rf f).queue = e :: q → ∃ q', ((t.ctrl d).rf f).queue = e :: q')

/-! ## CFGFILT (43_filter.md) -/

/-- A bank index of 28 or more fails `CFGFILT` without an access (R177). -/
def Obligations.CfgfiltRejectsBankOutOfRange : Prop :=
  ∀ (s : State) (c : Inst) (op : FilterOp),
    s.canIssue c = true → s.quiet c = true → 28 ≤ op.bank.toNat →
    ∃ t, exec (.cfgfilt op) s = .next t ∧ t.busy c = false ∧ (t.ctrl c).resp = ⟨2, 0, 0, 0, 0⟩ ∧
      (t.ctrl c).seq.trace = [] ∧ t.flt = s.flt

/-- An unsupported combination fails `CFGFILT` with no bank register touched; by default no combination is unsupported (R178).
Of the two writes of `FINIT`, the one at F1 sets it and changes nothing else of the filter block, and the last one clears it.
-/
def Obligations.CfgfiltRejectsUnsupportedCombination : Prop :=
  Config.default.unsupportedCombo = [] ∧
  (∀ (s : State) (c : Inst) (op : FilterOp), (s.ctrl c).seq.phase = .filter op .f1 →
    ∃ t, seqStep c s = .next t ∧ t.flt = { s.flt with finit := true } ∧ (t.ctrl c).seq.phase = .filter op .f2 ∧
      (t.ctrl c).seq.trace = (s.ctrl c).seq.trace ++ [.F .fmr [.finit]]) ∧
  ∀ (s : State) (c : Inst) (op : FilterOp),
    s.canIssue c = true → s.quiet c = true → op.bank.toNat < 28 → (op.scale, op.mode) ∈ s.cfg.unsupportedCombo →
    ∃ t, exec (.cfgfilt op) s = .next t ∧ t.busy c = false ∧ (t.ctrl c).resp = ⟨2, 0, 0, 0, 0⟩ ∧
      (t.ctrl c).seq.trace = [.F .fmr [.finit], .F .fmr [.finit]] ∧ t.flt = { s.flt with finit := false }

/-- `CFGFILT` with a supported combination completes on every bank, at either instance's port and whatever BUS does (R176,
R180, R181, R183, R184): the accesses are those of R83, the bank holds what the operands give, `FINIT` is clear, and every
other bank is as it was. -/
def Obligations.CfgfiltProgramsItsBankAlone : Prop :=
  ∀ (s : State) (c : Inst) (op : FilterOp) (hb : op.bank.toNat < 28),
    s.canIssue c = true → s.quiet c = true → (op.scale, op.mode) ∉ s.cfg.unsupportedCombo →
    ∃ t, exec (.cfgfilt op) s = .next t ∧ t.busy c = false ∧ (t.ctrl c).resp = ⟨0, 0, 0, 0, 0⟩ ∧
      (t.ctrl c).seq.trace =
        [.F .fmr [.finit], .F .fa1r [.bank op.bank.toNat], .F .fs1r [.bank op.bank.toNat],
          .F .fm1r [.bank op.bank.toNat], .F .ffa1r [.bank op.bank.toNat], .W (.fr1 op.bank.toNat),
          .W (.fr2 op.bank.toNat)] ++ (if op.enable then [.F .fa1r [.bank op.bank.toNat]] else []) ++
          [.F .fmr [.finit]] ∧
      t.flt.finit = false ∧
      t.flt.fs1r.getLsbD op.bank.toNat = decide (op.scale = .s32) ∧
      t.flt.fm1r.getLsbD op.bank.toNat = decide (op.mode = .list) ∧
      t.flt.ffa1r.getLsbD op.bank.toNat = decide (op.fifo = .f1) ∧
      t.flt.fa1r.getLsbD op.bank.toNat = op.enable ∧
      (op.scale = .s32 →
        t.flt.fr1[op.bank.toNat] = (op.idHigh.setWidth 32 <<< 16) ||| op.idLow.setWidth 32 ∧
        t.flt.fr2[op.bank.toNat] = (op.maskHigh.setWidth 32 <<< 16) ||| op.maskHigh.setWidth 32) ∧
      (op.scale = .s16 →
        t.flt.fr1[op.bank.toNat] = (op.maskLow.setWidth 32 <<< 16) ||| op.idLow.setWidth 32 ∧
        t.flt.fr2[op.bank.toNat] = (op.maskHigh.setWidth 32 <<< 16) ||| op.idHigh.setWidth 32) ∧
      ∀ (b : Nat) (h : b < 28), b ≠ op.bank.toNat →
        t.flt.fs1r.getLsbD b = s.flt.fs1r.getLsbD b ∧ t.flt.fm1r.getLsbD b = s.flt.fm1r.getLsbD b ∧
        t.flt.ffa1r.getLsbD b = s.flt.ffa1r.getLsbD b ∧ t.flt.fa1r.getLsbD b = s.flt.fa1r.getLsbD b ∧
        t.flt.fr1[b] = s.flt.fr1[b] ∧ t.flt.fr2[b] = s.flt.fr2[b]

/-- The frame of `CFGFILT` (R28, R83): when no other agent moves, both controller instances are as they were but for the
issuing instance's port, phase, operands, access record and response. That `sel`, `tick` and `latch` keep their values
through it and after it is the model's choice (log 33). -/
def Obligations.CfgfiltLeavesTheControllersAlone : Prop :=
  ∀ (s t : State) (c : Inst) (op : FilterOp),
    s.canIssue c = true → s.env = [] → exec (.cfgfilt op) s = .next t →
    t.ctrl c.other = s.ctrl c.other ∧
    ∃ tr o, t.ctrl c =
      { s.ctrl c with
        cmd := none, resp := (t.ctrl c).resp, seq := { (s.ctrl c).seq with trace := tr, operands := o } }

/-- Overlapping `CFGFILT` commands (R276, U8): a step that writes `FS1R`, `FM1R`, `FFA1R`, `FR1` or `FR2` while `FINIT` = 0
is a fault. -/
def Obligations.FilterWriteOutsideInitModeFaults : Prop :=
  ∀ (s : State) (c : Inst) (op : FilterOp) (a : FilterStep),
    (s.ctrl c).seq.phase = .filter op a → a ∈ [.f4, .f5, .f6, .f7a, .f7b] → s.flt.finit = false →
    seqStep c s = .fault .filterWriteOutsideInit

/-! ## TX (41_transmit.md) -/

/-- With no empty mailbox `TX` of any frame fails after one read of `TSR`, and writes nothing (R143, R145, R248 (b)). -/
def Obligations.TxWithoutEmptyMailboxFails : Prop :=
  ∀ (s : State) (c : Inst) (fr : Frame),
    s.canIssue c = true → s.quiet c = true → s.firstMoveOwn c = true → (∀ i, ((s.ctrl c).mb i).tme = false) →
    ∃ t, exec (.tx fr) s = .next t ∧ t.busy c = false ∧ (t.ctrl c).resp = ⟨1, 0, 0, 0, 0⟩ ∧
      (t.ctrl c).seq.trace = [.R (.tsr c)] ∧ t.flt = s.flt ∧ t.ctrl c.other = s.ctrl c.other ∧
      (t.ctrl c).mcr = (s.ctrl c).mcr ∧ (t.ctrl c).msr = (s.ctrl c).msr ∧ (t.ctrl c).btr = (s.ctrl c).btr ∧
      (∀ i, (t.ctrl c).mb i = (s.ctrl c).mb i) ∧ (∀ f, (t.ctrl c).rf f = (s.ctrl c).rf f)

/-- With an empty mailbox, a Data Frame over 8 bytes fails after one read of `TSR`, and SEQ writes nothing (R145). -/
def Obligations.TxOfLongFrameFails : Prop :=
  ∀ (s : State) (c : Inst) (id : Identifier) (len : Nat) (bytes : List Byte),
    s.canIssue c = true → s.quiet c = true → (∃ i, ((s.ctrl c).mb i).tme = true) → 8 < len →
    ∃ t, exec (.tx (.data id len bytes)) s = .next t ∧ t.busy c = false ∧ (t.ctrl c).resp = ⟨3, 0, 0, 0, 0⟩ ∧
      (t.ctrl c).seq.trace = [.R (.tsr c)] ∧ t.flt = s.flt ∧
      ∀ i, ((t.ctrl c).mb i).contents = ((s.ctrl c).mb i).contents ∧
        (((s.ctrl c).mb i).ti.txrq = false → (t.ctrl c).mb i = (s.ctrl c).mb i)

/-- `TX` completes with `Ok` when BUS sends the frame before a poll that the budget allows (R141, R142, R148, R150): the
first empty mailbox in the order 0, 1, 2 holds the frame's image, its request is over, and the three completion bits are
set. A Data Frame takes 8 steps up to the request, a Remote Frame 6. -/
def Obligations.TxCompletesWhenBusSends : Prop :=
  ∀ (s : State) (c : Inst) (fr : Frame) (img : Image) (i : Mb) (n : Nat),
    s.canIssue c = true → s.present c = true →
    (s.ctrl c).mcr.inrq = false → (s.ctrl c).msr.inak = false → (s.ctrl c).msr.slak = false →
    ((s.ctrl c).btr.getLsbD 31 = false ∨ (s.ctrl c).btr.getLsbD 30 = true) →
    ((s.ctrl c).mb i).tme = true → (∀ j, mbNumber j < mbNumber i → ((s.ctrl c).mb j).tme = false) →
    encodeFrame fr = some img → n < s.cfg.txTickBudget →
    s.env = List.replicate ((if img.hasData then 8 else 6) + n) (.seq c) ++ [.bus c (.txOk i)] →
    ∃ t, exec (.tx fr) s = .next t ∧ t.busy c = false ∧ (t.ctrl c).resp = ⟨0, 0, 0, 0, 0⟩ ∧
      ((t.ctrl c).mb i).holds img ((s.ctrl c).mb i) ∧ ((t.ctrl c).mb i).ti.txrq = false ∧
      ((t.ctrl c).mb i).tme = true ∧ ((t.ctrl c).mb i).rqcp = true ∧ ((t.ctrl c).mb i).txok = true ∧
      ((t.ctrl c).mb i).abrq = false ∧ (∀ j, j ≠ i → (t.ctrl c).mb j = (s.ctrl c).mb j) ∧
      t.flt = s.flt ∧ t.ctrl c.other = s.ctrl c.other ∧ (t.ctrl c).mcr = (s.ctrl c).mcr ∧
      (t.ctrl c).msr = (s.ctrl c).msr ∧ (t.ctrl c).btr = (s.ctrl c).btr ∧ (∀ f, (t.ctrl c).rf f = (s.ctrl c).rf f)

/-- On a dead bus `TX` times out after exactly `TX_TICK_BUDGET` polls and one abort request (R149, R150): the mailbox holds
the image, still requested, and nothing else of the controllers and filters has changed. -/
def Obligations.TxTimesOutOnADeadBus : Prop :=
  ∀ (s : State) (c : Inst) (fr : Frame) (img : Image) (i : Mb),
    s.canIssue c = true → s.env = [] → 1 ≤ s.cfg.txTickBudget →
    ((s.ctrl c).mb i).tme = true → (∀ j, mbNumber j < mbNumber i → ((s.ctrl c).mb j).tme = false) →
    encodeFrame fr = some img →
    ∃ t, exec (.tx fr) s = .next t ∧ t.busy c = false ∧ (t.ctrl c).resp = ⟨4, 0, 0, 0, 0⟩ ∧
      (t.ctrl c).seq.trace =
        [.R (.tsr c), .W (.ti c i), .F (.tdt c i) [.dlc]] ++
          (if img.hasData then [.W (.tdl c i), .W (.tdh c i)] else []) ++
          [.F (.tdt c i) [.tgt], .F (.ti c i) [.txrq]] ++ List.replicate s.cfg.txTickBudget (.R (.tsr c)) ++
          [.F (.tsr c) [.abrq i]] ∧
      ((t.ctrl c).mb i).holds img ((s.ctrl c).mb i) ∧ ((t.ctrl c).mb i).ti.txrq = true ∧
      ((t.ctrl c).mb i).tme = false ∧ ((t.ctrl c).mb i).rqcp = false ∧ ((t.ctrl c).mb i).txok = false ∧
      ((t.ctrl c).mb i).abrq = true ∧ (∀ j, j ≠ i → (t.ctrl c).mb j = (s.ctrl c).mb j) ∧
      t.flt = s.flt ∧ t.ctrl c.other = s.ctrl c.other ∧ (t.ctrl c).mcr = (s.ctrl c).mcr ∧
      (t.ctrl c).msr = (s.ctrl c).msr ∧ (t.ctrl c).btr = (s.ctrl c).btr ∧ (∀ f, (t.ctrl c).rf f = (s.ctrl c).rf f)

/-- Whatever BUS does, a `TX` that finds an empty mailbox and a valid frame ends with `Ok` or `Timeout` (R140, R147 to R150,
R152, R153): the mailbox that T1 latched in `sel` holds the image and no other mailbox's contents change; `Ok` comes with the
completion bits and at most `TX_TICK_BUDGET` polls, `Timeout` with exactly that many and one write of `ABRQ`, which stands as
long as the request does. If the command moves first, that mailbox is the first empty one (R142). That `sel` still names it
after the end is the model's choice (log 33). -/
def Obligations.TxEndsWithOkOrTimeout : Prop :=
  ∀ (s : State) (c : Inst) (fr : Frame) (img : Image),
    s.inv = true → s.canIssue c = true → s.quiet c = true → (∃ i, ((s.ctrl c).mb i).tme = true) →
    encodeFrame fr = some img →
    ∃ t i, exec (.tx fr) s = .next t ∧ t.busy c = false ∧ i = (t.ctrl c).seq.sel ∧
      (s.firstMoveOwn c = true →
        ((s.ctrl c).mb i).tme = true ∧ ∀ j, mbNumber j < mbNumber i → ((s.ctrl c).mb j).tme = false) ∧
      ((t.ctrl c).mb i).holds img ((s.ctrl c).mb i) ∧
      (∀ j, j ≠ i → ((t.ctrl c).mb j).contents = ((s.ctrl c).mb j).contents) ∧
      t.flt = s.flt ∧ (t.ctrl c).mcr = (s.ctrl c).mcr ∧ (t.ctrl c).btr = (s.ctrl c).btr ∧
      (((t.ctrl c).resp = ⟨0, 0, 0, 0, 0⟩ ∧ ((t.ctrl c).mb i).ti.txrq = false ∧ ((t.ctrl c).mb i).tme = true ∧
          ((t.ctrl c).mb i).rqcp = true ∧ ((t.ctrl c).mb i).txok = true ∧ ((t.ctrl c).mb i).abrq = false ∧
          (t.ctrl c).seq.trace.count (.R (.tsr c)) ≤ s.cfg.txTickBudget + 1 ∧
          (t.ctrl c).seq.trace.count (.F (.tsr c) [.abrq i]) = 0) ∨
        ((t.ctrl c).resp = ⟨4, 0, 0, 0, 0⟩ ∧ ((t.ctrl c).mb i).tme = !((t.ctrl c).mb i).ti.txrq ∧
          ((t.ctrl c).mb i).abrq = ((t.ctrl c).mb i).ti.txrq ∧
          (t.ctrl c).seq.trace.count (.R (.tsr c)) = s.cfg.txTickBudget + 1 ∧
          (t.ctrl c).seq.trace.count (.F (.tsr c) [.abrq i]) = 1))

/-- Setting `TXRQ` clears `TME`, `RQCP` and `TXOK` of that mailbox in the same step (R216), so that flags left by an earlier
transmission cannot give a false `Ok` (R152 (d)). -/
def Obligations.RequestClearsStaleFlags : Prop :=
  ∀ (s : State) (c : Inst) (fr : Frame), (s.ctrl c).seq.phase = .tx fr .t7 →
    ∃ t, seqStep c s = .next t ∧
      let m := (t.ctrl c).mb (s.ctrl c).seq.sel
      m.ti.txrq = true ∧ m.tme = false ∧ m.rqcp = false ∧ m.txok = false ∧
      m.abrq = ((s.ctrl c).mb (s.ctrl c).seq.sel).abrq ∧ m.done = false ∧
      ∀ j, j ≠ (s.ctrl c).seq.sel → (t.ctrl c).mb j = (s.ctrl c).mb j

/-- Setting `ABRQ` (R219): it stands if the request does, and has no effect on an empty mailbox (R152 (b)); `Timeout` is
returned in the same step (R149). -/
def Obligations.AbortRequestOnEmptyMailboxHasNoEffect : Prop :=
  ∀ (s : State) (c : Inst) (fr : Frame) (m : Mailbox), (s.ctrl c).seq.phase = .tx fr .t9 →
    (s.ctrl c).mb (s.ctrl c).seq.sel = m → m.inv = true →
    ∃ t, seqStep c s = .next t ∧ (t.ctrl c).resp = ⟨4, 0, 0, 0, 0⟩ ∧ t.busy c = false ∧
      (m.ti.txrq = true → (t.ctrl c).mb (s.ctrl c).seq.sel = { m with abrq := true }) ∧
      (m.ti.txrq = false → (t.ctrl c).mb (s.ctrl c).seq.sel = m)

/-! ## RX (42_receive.md) -/

/-- `RX` on an empty FIFO fails after one read of `RF[f]` and writes nothing (R162). -/
def Obligations.RxOfEmptyFifoFails : Prop :=
  ∀ (s : State) (c : Inst) (f : Fifo),
    s.canIssue c = true → s.quiet c = true → s.firstMoveOwn c = true → ((s.ctrl c).rf f).queue = [] →
    ∃ t, exec (.rx f) s = .next t ∧ t.busy c = false ∧ (t.ctrl c).resp = ⟨1, 0, 0, 0, 0⟩ ∧
      (t.ctrl c).seq.trace = [.R (.rf c f)] ∧ t.flt = s.flt ∧ t.ctrl c.other = s.ctrl c.other ∧
      (t.ctrl c).mcr = (s.ctrl c).mcr ∧ (t.ctrl c).msr = (s.ctrl c).msr ∧ (t.ctrl c).btr = (s.ctrl c).btr ∧
      (∀ i, (t.ctrl c).mb i = (s.ctrl c).mb i) ∧ (∀ g, (t.ctrl c).rf g = (s.ctrl c).rf g)

/-- Whatever BUS does between the accesses, `RX` returns the frame of the entry that headed the queue when it was issued,
by the six accesses of R83, and the release clears `FULL` and `FOVR` whatever happened (R161, R163 to R165, R167). -/
def Obligations.RxReturnsTheHeadOfItsFifo : Prop :=
  ∀ (s : State) (c : Inst) (f : Fifo) (e : Entry) (q : List Entry) (fr : Frame),
    s.canIssue c = true → s.quiet c = true → ((s.ctrl c).rf f).queue = e :: q →
    decodeFrame e.ri e.rdt e.rdl e.rdh = some fr →
    ∃ t, exec (.rx f) s = .next t ∧ t.busy c = false ∧ (t.ctrl c).resp = frameResp fr ∧
      (t.ctrl c).seq.trace =
        [.R (.rf c f), .R (.ri c f), .R (.rdt c f), .R (.rdl c f), .R (.rdh c f), .F (.rf c f) [.rfom, .fovr, .full]] ∧
      ((t.ctrl c).rf f).full = false ∧ ((t.ctrl c).rf f).fovr = false ∧
      q.length ≤ ((t.ctrl c).rf f).queue.length ∧ t.flt = s.flt ∧ (t.ctrl c).mcr = (s.ctrl c).mcr ∧
      (t.ctrl c).btr = (s.ctrl c).btr ∧ ∀ i, ((t.ctrl c).mb i).contents = ((s.ctrl c).mb i).contents

/-- A Data entry with a length field of 9 to 15 fails `RX` after five reads (R166): with `RX_RELEASE_ON_INVALID` false the
entry stays at the head and the flags are not cleared, with true it is released. -/
def Obligations.RxOfBadEntryFails : Prop :=
  ∀ (s : State) (c : Inst) (f : Fifo) (e : Entry) (q : List Entry),
    s.canIssue c = true → s.env = [] → ((s.ctrl c).rf f).queue = e :: q → e.ri.getLsbD 1 = false →
    8 < (e.rdt.extractLsb' 0 4).toNat →
    ∃ t, exec (.rx f) s = .next t ∧ t.busy c = false ∧ (t.ctrl c).resp = ⟨3, 0, 0, 0, 0⟩ ∧
      (t.ctrl c).seq.trace =
        [.R (.rf c f), .R (.ri c f), .R (.rdt c f), .R (.rdl c f), .R (.rdh c f)] ++
          (if s.cfg.rxReleaseOnInvalid then [.F (.rf c f) [.rfom, .fovr, .full]] else []) ∧
      (t.ctrl c).rf f = (if s.cfg.rxReleaseOnInvalid then ⟨q, false, false⟩ else (s.ctrl c).rf f)

/-- The frame of `RX` (R28, R160, R164, R168): when no other agent moves, an `Ok` removes exactly the head entry, clears the
two flags of that FIFO, and changes no other register of either instance and no filter register. -/
def Obligations.RxRemovesOneEntryAlone : Prop :=
  ∀ (s : State) (c : Inst) (f : Fifo) (e : Entry) (q : List Entry) (fr : Frame),
    s.canIssue c = true → s.env = [] → ((s.ctrl c).rf f).queue = e :: q →
    decodeFrame e.ri e.rdt e.rdl e.rdh = some fr →
    ∃ t, exec (.rx f) s = .next t ∧ t.flt = s.flt ∧ t.ctrl c.other = s.ctrl c.other ∧
      (t.ctrl c).rf f = ⟨q, false, false⟩ ∧ (∀ g, g ≠ f → (t.ctrl c).rf g = (s.ctrl c).rf g) ∧
      (∀ i, (t.ctrl c).mb i = (s.ctrl c).mb i) ∧ (t.ctrl c).mcr = (s.ctrl c).mcr ∧
      (t.ctrl c).msr = (s.ctrl c).msr ∧ (t.ctrl c).btr = (s.ctrl c).btr ∧ (t.ctrl c).seq.inited = true

/-- The response of `Ok(frame)` (R99, R128): of a Data Frame the length, and the window's payload words with the lanes at or
above the length cleared; of a Remote Frame words 2 to 4 are 0; `S1` holds the identifier right-aligned with the tags. -/
def Obligations.RxResponseIsCanonical : Prop :=
  ∀ (ri rdt rdl rdh : Word) (fr : Frame), decodeFrame ri rdt rdl rdh = some fr →
    (frameResp fr).s0 = 0 ∧ (frameResp fr).s1.getLsbD 31 = ri.getLsbD 2 ∧
    (frameResp fr).s1.getLsbD 30 = ri.getLsbD 1 ∧ (frameResp fr).s1.getLsbD 29 = false ∧
    (ri.getLsbD 2 = true → (frameResp fr).s1.extractLsb' 0 29 = ri.extractLsb' 3 29) ∧
    (ri.getLsbD 2 = false → (frameResp fr).s1.extractLsb' 0 29 = (ri.extractLsb' 21 11).setWidth 29) ∧
    (ri.getLsbD 1 = true → (frameResp fr).s2 = 0 ∧ (frameResp fr).s3 = 0 ∧ (frameResp fr).s4 = 0) ∧
    (ri.getLsbD 1 = false →
      (frameResp fr).s2 = (rdt.extractLsb' 0 4).setWidth 32 ∧
      (frameResp fr).s3 = rdl &&& laneMask (rdt.extractLsb' 0 4).toNat ∧
      (frameResp fr).s4 = rdh &&& laneMask ((rdt.extractLsb' 0 4).toNat - 4))

/-! ## BUS (45_bus_engine.md) -/

/-- What a step of BUS never does (R237): it writes no `MCR`, `BTR`, filter register, mailbox contents, sequencer or port;
it sets no `TXRQ` and clears no `TME`; it removes no head and shortens no queue; it touches no other instance. -/
def Obligations.BusNeverWritesWhatSeqOwns : Prop :=
  ∀ (s t : State) (c : Inst) (e : BusStep), busStep c e s = some t →
    t.flt = s.flt ∧ t.cfg = s.cfg ∧ t.ctrl c.other = s.ctrl c.other ∧
    (t.ctrl c).mcr = (s.ctrl c).mcr ∧ (t.ctrl c).btr = (s.ctrl c).btr ∧ (t.ctrl c).seq = (s.ctrl c).seq ∧
    (t.ctrl c).cmd = (s.ctrl c).cmd ∧ (t.ctrl c).resp = (s.ctrl c).resp ∧
    (∀ i, ((t.ctrl c).mb i).contents = ((s.ctrl c).mb i).contents ∧
      (((s.ctrl c).mb i).ti.txrq = false → ((t.ctrl c).mb i).ti.txrq = false) ∧
      (((s.ctrl c).mb i).tme = true → ((t.ctrl c).mb i).tme = true)) ∧
    (∀ f, ((s.ctrl c).rf f).queue.length ≤ ((t.ctrl c).rf f).queue.length ∧
      ∀ x q, ((s.ctrl c).rf f).queue = x :: q → ∃ q', ((t.ctrl c).rf f).queue = x :: q')

/-- A request is concluded only in normal mode, from a pending mailbox (R217, R218, R226); without an abort request or `NART`
only by sending (R218), and with `SILM` and no `LBKM` never by sending (R236; log 10). Normal mode is `INRQ`, `INAK` and
`SLAK` all 0 (R226). -/
def Obligations.BusConcludesOnlyPendingRequests : Prop :=
  ∀ (s t : State) (c : Inst) (i : Mb) (sent : Bool),
    busStep c (if sent then .txOk i else .txEnd i) s = some t →
    (s.ctrl c).mcr.inrq = false ∧ (s.ctrl c).msr.inak = false ∧ (s.ctrl c).msr.slak = false ∧
    ((s.ctrl c).mb i).ti.txrq = true ∧
    (sent = false → ((s.ctrl c).mb i).abrq = true ∨ (s.ctrl c).mcr.nart = true) ∧
    (sent = true → (s.ctrl c).btr.getLsbD 31 = true → (s.ctrl c).btr.getLsbD 30 = true) ∧
    (t.ctrl c).mb i =
      { (s.ctrl c).mb i with
        ti := { ((s.ctrl c).mb i).ti with txrq := false }, tme := true, rqcp := true, txok := sent, abrq := false } ∧
    (∀ j, j ≠ i → (t.ctrl c).mb j = (s.ctrl c).mb j) ∧ (∀ f, (t.ctrl c).rf f = (s.ctrl c).rf f)

/-- A deposit puts a frame into a FIFO only in normal mode (`INRQ`, `INAK` and `SLAK` all 0), with the filters live, through an active
bank that is assigned to that FIFO and matches (R179, R226, R228, R275); it joins the tail of a queue with room, and `FULL`
is set when it makes three (R229). -/
def Obligations.DepositNeedsALiveMatchingBank : Prop :=
  ∀ (s t : State) (c : Inst) (f : Fifo) (fr : BusFrame) (junk : Junk),
    busStep c (.deposit f fr junk) s = some t →
    (s.ctrl c).mcr.inrq = false ∧ (s.ctrl c).msr.inak = false ∧ (s.ctrl c).msr.slak = false ∧ s.flt.finit = false ∧
    (∃ b : Fin 28, s.flt.fa1r.getLsbD b = true ∧ s.flt.ffa1r.getLsbD b = decide (f = .f1) ∧
      matchBank s.cfg.matchRule s.flt b fr = true) ∧
    ((s.ctrl c).rf f).queue.length < 3 ∧
    ((t.ctrl c).rf f).queue = ((s.ctrl c).rf f).queue ++ [storedImage fr junk] ∧
    (((t.ctrl c).rf f).queue.length = 3 → ((t.ctrl c).rf f).full = true) ∧
    ((t.ctrl c).rf f).fovr = ((s.ctrl c).rf f).fovr ∧
    (∀ g, g ≠ f → (t.ctrl c).rf g = (s.ctrl c).rf g) ∧ (∀ i, (t.ctrl c).mb i = (s.ctrl c).mb i)

/-- An overrun needs what a deposit needs but for the room: normal mode, live filters, and an active matching bank assigned to
that FIFO (R226, R228, R230, R275). It sets `FOVR`, keeps `FMP` and the head, and with `RFLM` discards the frame, without it
replaces the newest entry (R230). -/
def Obligations.OverrunKeepsTheHead : Prop :=
  ∀ (s t : State) (c : Inst) (f : Fifo) (fr : BusFrame) (junk : Junk),
    busStep c (.overrun f fr junk) s = some t →
    (s.ctrl c).mcr.inrq = false ∧ (s.ctrl c).msr.inak = false ∧ (s.ctrl c).msr.slak = false ∧ s.flt.finit = false ∧
    (∃ b : Fin 28, s.flt.fa1r.getLsbD b = true ∧ s.flt.ffa1r.getLsbD b = decide (f = .f1) ∧
      matchBank s.cfg.matchRule s.flt b fr = true) ∧
    ((s.ctrl c).rf f).queue.length = 3 ∧ ((t.ctrl c).rf f).queue.length = 3 ∧ ((t.ctrl c).rf f).fovr = true ∧
    ((t.ctrl c).rf f).full = ((s.ctrl c).rf f).full ∧
    ((t.ctrl c).rf f).queue.take 2 = ((s.ctrl c).rf f).queue.take 2 ∧
    ((s.ctrl c).mcr.rflm = true → ((t.ctrl c).rf f).queue = ((s.ctrl c).rf f).queue) ∧
    ((s.ctrl c).mcr.rflm = false → ((t.ctrl c).rf f).queue[2]? = some (storedImage fr junk)) ∧
    (∀ g, g ≠ f → (t.ctrl c).rf g = (s.ctrl c).rf g) ∧ (∀ i, (t.ctrl c).mb i = (s.ctrl c).mb i)

/-- What one instance sends, another decodes to an equal frame (R130, R234): the image BUS stores for the frame that
`ENCODE` put into a mailbox decodes to it, whatever the unspecified bits are. -/
def Obligations.SentFrameDecodesToItself : Prop :=
  ∀ (fr : Frame) (img : Image) (id : Identifier) (rtr : Bool) (lo hi : Word) (junk : Junk),
    fr.wellFormed = true → encodeFrame fr = some img →
    ((∃ len bytes, fr = .data id len bytes) ∧ rtr = false ∧ lo = img.tdl ∧ hi = img.tdh ∨ fr = .remote id ∧ rtr = true) →
    let e := storedImage ⟨id, rtr, img.dlc, lo, hi⟩ junk
    decodeFrame e.ri e.rdt e.rdl e.rdh = some fr

/-- The default acceptance test of a bank at 32-bit scale in mask mode (R231): every bit whose mask bit is 1 must agree, bit
0 apart. -/
def Obligations.MaskBankComparesTheMaskedBits : Prop :=
  ∀ (flt : Filters) (b : Fin 28) (fr : BusFrame), flt.fs1r.getLsbD b = true → flt.fm1r.getLsbD b = false →
    (matchBank .standard flt b fr = true ↔
      ∀ n, 1 ≤ n → n < 32 → flt.fr2[b].getLsbD n = true → (idImage fr.id fr.rtr).getLsbD n = flt.fr1[b].getLsbD n)

/-! ## The machine as a whole -/

/-- The invariant holds at reset (R60, R62, R267). -/
def Obligations.ResetStateMeetsTheInvariant : Prop := State.reset.inv = true

/-- Every step keeps the invariant (R34, R42, R51, R56, R58, R142, R163, R219, R252), from every state that meets it. -/
def Obligations.StepKeepsTheInvariant : Prop :=
  ∀ s t : State, s.inv = true → step s = .next t → t.inv = true

/-- No step changes a parameter (R9). -/
def Obligations.StepKeepsTheParameters : Prop :=
  ∀ s t : State, step s = .next t → t.cfg = s.cfg ∧ t.active = s.active

/-- Only the two waits of `INIT` can hang (R251): whatever turns the other agents take, a command that stops without its
end is an `INIT` at I4 or I8 whose condition does not hold. That `exec` can answer such a `BUSY` state is the model's choice
(log 22). -/
def Obligations.OnlyInitCanHang : Prop :=
  ∀ (s t : State) (i : Instr), s.busy s.active = false → exec i s = .next t → t.busy s.active = true →
    (∃ op, i = .init op) ∧ t.waiting s.active = true

/-- Which command can return which status (R241), whatever turns the other agents take. -/
def Obligations.CommandsReturnOnlyTheirStatuses : Prop :=
  ∀ (s t : State) (c : Inst), s.idleAt c = true → t.busy c = false →
    (∀ op, exec (.init op) s = .next t → (t.ctrl c).resp.s0 ∈ [0, 2]) ∧
    (∀ op, exec (.cfgfilt op) s = .next t → (t.ctrl c).resp.s0 ∈ [0, 2, 5]) ∧
    (∀ fr, exec (.tx fr) s = .next t → (t.ctrl c).resp.s0 ∈ [0, 1, 3, 4, 5]) ∧
    (∀ f, exec (.rx f) s = .next t → (t.ctrl c).resp.s0 ∈ [0, 1, 3, 5])

/-- The behaviour flags of `MCR` and the bit timing are written in initialisation mode only, by the instance's own `INIT`
at I5 and I6, apart from the reset at I2 of the primary's `INIT` (R40, R42, R252). -/
def Obligations.ControlRegistersChangeOnlyInInitMode : Prop :=
  ∀ (x : Turn) (s t : State) (c : Inst), s.inv = true → turn x s = .next t →
    ((t.ctrl c).btr ≠ (s.ctrl c).btr ∨ (t.ctrl c).mcr.txfp ≠ (s.ctrl c).mcr.txfp ∨
      (t.ctrl c).mcr.rflm ≠ (s.ctrl c).mcr.rflm ∨ (t.ctrl c).mcr.nart ≠ (s.ctrl c).mcr.nart ∨
      (t.ctrl c).mcr.awum ≠ (s.ctrl c).mcr.awum ∨ (t.ctrl c).mcr.abom ≠ (s.ctrl c).mcr.abom) →
    (x = .seq c ∧ (s.ctrl c).mcr.inrq = true ∧ (s.ctrl c).msr.inak = true ∧
      ∃ op, (s.ctrl c).seq.phase = .init op .i5 ∨ (s.ctrl c).seq.phase = .init op .i6) ∨
    (x = .seq .primary ∧ ∃ op, s.primary.seq.phase = .init op .i2)

/-- The five registers `FS1R`, `FM1R`, `FFA1R`, `FR1` and `FR2` are written in filter-bank initialisation mode only, by a
`CFGFILT` at F4 to F7, apart from the reset at I2 of the primary's `INIT` (R44, R48, R252, R276). `FA1R` is written by a
`CFGFILT` at F3 and F8 only, apart from that reset; overlapping commands can bring a write of it about with `FINIT` = 0 too,
which R276 does not name and the model does not make a fault (log 14). -/
def Obligations.BankRegistersChangeOnlyInFilterInitMode : Prop :=
  ∀ (x : Turn) (s t : State), turn x s = .next t →
    ((t.flt.fs1r ≠ s.flt.fs1r ∨ t.flt.fm1r ≠ s.flt.fm1r ∨ t.flt.ffa1r ≠ s.flt.ffa1r ∨ t.flt.fr1 ≠ s.flt.fr1 ∨
        t.flt.fr2 ≠ s.flt.fr2) →
      (s.flt.finit = true ∧ ∃ c op a, x = .seq c ∧ (s.ctrl c).seq.phase = .filter op a ∧
        a ∈ [.f4, .f5, .f6, .f7a, .f7b]) ∨
      (x = .seq .primary ∧ ∃ op, s.primary.seq.phase = .init op .i2)) ∧
    (t.flt.fa1r ≠ s.flt.fa1r →
      (∃ c op a, x = .seq c ∧ (s.ctrl c).seq.phase = .filter op a ∧ a ∈ [.f3, .f8]) ∨
      (x = .seq .primary ∧ ∃ op, s.primary.seq.phase = .init op .i2))

/-- Under `BUS_HEALTHY` an `INIT` that has passed its validation ends (R222, R251): on a schedule in which the instance's
SEQ goes on and beside it only BUS moves, the sequencer becomes idle with `Ok`. -/
def Obligations.HealthyBusLetsInitReturn : Prop :=
  ∀ (sched : Nat → Turn) (s : State) (c : Inst) (op : InitOp),
    s.inv = true → s.present c = true → s.resetAllowed c = true → (s.ctrl c).seq.phase = .init op .i1 →
    (∀ n, (sched n).ownOrBus c = true ∧ s.present (sched n).inst = true) → SeqRuns sched c → BusHealthy sched s c →
    ∃ n t, after sched s n = .next t ∧ t.busy c = false ∧ (t.ctrl c).resp = ⟨0, 0, 0, 0, 0⟩ ∧
      (t.ctrl c).seq.inited = true

/-! ## More of BUS (45_bus_engine.md) -/

/-- The three mode steps of BUS (R224, R225): each can be taken exactly when its guard holds, and then changes its one bit of
`MSR` and nothing else. -/
def Obligations.BusAcknowledgesModeRequests : Prop :=
  ∀ (s : State) (c : Inst),
    ((busStep c .inakSet s).isSome = true ↔
      (s.ctrl c).mcr.inrq = true ∧ (s.ctrl c).mcr.sleep = false ∧ (s.ctrl c).msr.inak = false) ∧
    ((busStep c .inakClr s).isSome = true ↔ (s.ctrl c).mcr.inrq = false ∧ (s.ctrl c).msr.inak = true) ∧
    ((busStep c .slakClr s).isSome = true ↔ (s.ctrl c).mcr.sleep = false ∧ (s.ctrl c).msr.slak = true) ∧
    (∀ t, busStep c .inakSet s = some t → (t.ctrl c).msr = { (s.ctrl c).msr with inak := true }) ∧
    (∀ t, busStep c .inakClr s = some t → (t.ctrl c).msr = { (s.ctrl c).msr with inak := false }) ∧
    (∀ t, busStep c .slakClr s = some t → (t.ctrl c).msr = { (s.ctrl c).msr with slak := false }) ∧
    ∀ (e : BusStep) (t : State), e ∈ [.inakSet, .inakClr, .slakClr] → busStep c e s = some t →
      t.flt = s.flt ∧ t.ctrl c.other = s.ctrl c.other ∧ t.ctrl c = { s.ctrl c with msr := (t.ctrl c).msr }

/-- The other three rows of the default acceptance test (R231), bit by bit, and the 16-bit value that the 16-bit rows
compare: a 32-bit list bank accepts a frame that agrees with either register in every bit but bit 0; a 16-bit mask bank one
that agrees with the low half of either register wherever its high half is 1; a 16-bit list bank one that agrees with a whole
half. -/
def Obligations.OtherBankModesCompareAsTheirRowSays : Prop :=
  (∀ (id : Identifier) (rtr : Bool),
    (x16 id rtr).getLsbD 4 = rtr ∧
    (∀ n, id = .base n →
      (x16 id rtr).extractLsb' 5 11 = n ∧ (x16 id rtr).getLsbD 3 = false ∧ (x16 id rtr).extractLsb' 0 3 = 0) ∧
    (∀ n, id = .ext n →
      (x16 id rtr).extractLsb' 5 11 = n.extractLsb' 18 11 ∧ (x16 id rtr).getLsbD 3 = true ∧
      (x16 id rtr).extractLsb' 0 3 = n.extractLsb' 15 3)) ∧
  ∀ (flt : Filters) (b : Fin 28) (fr : BusFrame),
    let u := idImage fr.id fr.rtr
    let h := x16 fr.id fr.rtr
    let p := flt.fr1[b]
    let q := flt.fr2[b]
    (flt.fs1r.getLsbD b = true → flt.fm1r.getLsbD b = true →
      (matchBank .standard flt b fr = true ↔
        (∀ n, 1 ≤ n → n < 32 → u.getLsbD n = p.getLsbD n) ∨ (∀ n, 1 ≤ n → n < 32 → u.getLsbD n = q.getLsbD n))) ∧
    (flt.fs1r.getLsbD b = false → flt.fm1r.getLsbD b = false →
      (matchBank .standard flt b fr = true ↔
        (∀ n, n < 16 → p.getLsbD (16 + n) = true → h.getLsbD n = p.getLsbD n) ∨
        (∀ n, n < 16 → q.getLsbD (16 + n) = true → h.getLsbD n = q.getLsbD n))) ∧
    (flt.fs1r.getLsbD b = false → flt.fm1r.getLsbD b = true →
      (matchBank .standard flt b fr = true ↔
        (∀ n, n < 16 → h.getLsbD n = p.getLsbD n) ∨ (∀ n, n < 16 → h.getLsbD n = p.getLsbD (16 + n)) ∨
        (∀ n, n < 16 → h.getLsbD n = q.getLsbD n) ∨ (∀ n, n < 16 → h.getLsbD n = q.getLsbD (16 + n))))
end

