-- ==== Sys2Proof/Laws/State.lean ====
section
/-! SUPPORT. One lemma per part of the state and per update of it, so that proofs need not unfold a record update. -/

namespace Sys2Proof.Machine

/-! ## `State.upd` and `State.updFlt` -/

@[simp] theorem ctrl_upd_same (s : State) (c : Inst) (g : Ctrl → Ctrl) : (s.upd c g).ctrl c = g (s.ctrl c) := by
  cases c <;> rfl

theorem ctrl_upd_ne (s : State) {c d : Inst} (g : Ctrl → Ctrl) (h : d ≠ c) : (s.upd c g).ctrl d = s.ctrl d := by
  cases c <;> cases d <;> first | rfl | exact absurd rfl h

@[simp] theorem ctrl_upd_other (s : State) (c : Inst) (g : Ctrl → Ctrl) : (s.upd c g).ctrl c.other = s.ctrl c.other := by
  cases c <;> rfl

theorem ctrl_upd (s : State) (c d : Inst) (g : Ctrl → Ctrl) :
    (s.upd c g).ctrl d = if d = c then g (s.ctrl d) else s.ctrl d := by
  cases c <;> cases d <;> rfl

@[simp] theorem upd_flt (s : State) (c : Inst) (g : Ctrl → Ctrl) : (s.upd c g).flt = s.flt := by cases c <;> rfl
@[simp] theorem upd_cfg (s : State) (c : Inst) (g : Ctrl → Ctrl) : (s.upd c g).cfg = s.cfg := by cases c <;> rfl
@[simp] theorem upd_active (s : State) (c : Inst) (g : Ctrl → Ctrl) : (s.upd c g).active = s.active := by cases c <;> rfl
@[simp] theorem upd_env (s : State) (c : Inst) (g : Ctrl → Ctrl) : (s.upd c g).env = s.env := by cases c <;> rfl
@[simp] theorem upd_draws (s : State) (c : Inst) (g : Ctrl → Ctrl) : (s.upd c g).draws = s.draws := by cases c <;> rfl
@[simp] theorem upd_codec (s : State) (c : Inst) (g : Ctrl → Ctrl) : (s.upd c g).codec = s.codec := by cases c <;> rfl

@[simp] theorem upd_upd (s : State) (c : Inst) (g h : Ctrl → Ctrl) : (s.upd c g).upd c h = s.upd c fun k => h (g k) := by
  cases c <;> rfl

@[simp] theorem updFlt_ctrl (s : State) (g : Filters → Filters) (c : Inst) : (s.updFlt g).ctrl c = s.ctrl c := by
  cases c <;> rfl

@[simp] theorem updFlt_flt (s : State) (g : Filters → Filters) : (s.updFlt g).flt = g s.flt := rfl
@[simp] theorem updFlt_cfg (s : State) (g : Filters → Filters) : (s.updFlt g).cfg = s.cfg := rfl
@[simp] theorem updFlt_active (s : State) (g : Filters → Filters) : (s.updFlt g).active = s.active := rfl
@[simp] theorem updFlt_env (s : State) (g : Filters → Filters) : (s.updFlt g).env = s.env := rfl
@[simp] theorem updFlt_draws (s : State) (g : Filters → Filters) : (s.updFlt g).draws = s.draws := rfl
@[simp] theorem updFlt_codec (s : State) (g : Filters → Filters) : (s.updFlt g).codec = s.codec := rfl

@[simp] theorem ctrl_withEnv (s : State) (e : List Turn) (c : Inst) : ({ s with env := e } : State).ctrl c = s.ctrl c := by
  cases c <;> rfl

@[simp] theorem ctrl_withDraws (s : State) (n : Nat) (c : Inst) : ({ s with draws := n } : State).ctrl c = s.ctrl c := by
  cases c <;> rfl

@[simp] theorem ctrl_withCodec (s : State) (r : Option CodecResult) (c : Inst) :
    ({ s with codec := r } : State).ctrl c = s.ctrl c := by
  cases c <;> rfl

@[simp] theorem present_primary (s : State) : s.present .primary = true := rfl

@[simp] theorem present_upd (s : State) (c d : Inst) (g : Ctrl → Ctrl) : (s.upd c g).present d = s.present d := by
  cases c <;> cases d <;> rfl

@[simp] theorem present_updFlt (s : State) (d : Inst) (g : Filters → Filters) : (s.updFlt g).present d = s.present d := by
  cases d <;> rfl

@[simp] theorem present_withEnv (s : State) (e : List Turn) (d : Inst) :
    ({ s with env := e } : State).present d = s.present d := by
  cases d <;> rfl

@[simp] theorem present_withDraws (s : State) (n : Nat) (d : Inst) :
    ({ s with draws := n } : State).present d = s.present d := by
  cases d <;> rfl

@[simp] theorem exitAckWait_upd (s : State) (c d : Inst) (g : Ctrl → Ctrl) : (s.upd c g).exitAckWait d = s.exitAckWait d := by
  cases c <;> cases d <;> rfl

@[simp] theorem exitAckWait_withEnv (s : State) (e : List Turn) (d : Inst) :
    ({ s with env := e } : State).exitAckWait d = s.exitAckWait d := by
  cases d <;> rfl

@[simp] theorem exitAckWait_withDraws (s : State) (n : Nat) (d : Inst) :
    ({ s with draws := n } : State).exitAckWait d = s.exitAckWait d := by
  cases d <;> rfl

/-! ## Mailboxes and FIFOs -/

@[simp] theorem mb_updMb_same (k : Ctrl) (i : Mb) (g : Mailbox → Mailbox) : (k.updMb i g).mb i = g (k.mb i) := by
  cases i <;> rfl

theorem mb_updMb_ne (k : Ctrl) {i j : Mb} (g : Mailbox → Mailbox) (h : j ≠ i) : (k.updMb i g).mb j = k.mb j := by
  cases i <;> cases j <;> first | rfl | exact absurd rfl h

theorem mb_updMb (k : Ctrl) (i j : Mb) (g : Mailbox → Mailbox) :
    (k.updMb i g).mb j = if j = i then g (k.mb j) else k.mb j := by
  cases i <;> cases j <;> rfl

@[simp] theorem updMb_mcr (k : Ctrl) (i : Mb) (g : Mailbox → Mailbox) : (k.updMb i g).mcr = k.mcr := by cases i <;> rfl
@[simp] theorem updMb_msr (k : Ctrl) (i : Mb) (g : Mailbox → Mailbox) : (k.updMb i g).msr = k.msr := by cases i <;> rfl
@[simp] theorem updMb_btr (k : Ctrl) (i : Mb) (g : Mailbox → Mailbox) : (k.updMb i g).btr = k.btr := by cases i <;> rfl
@[simp] theorem updMb_seq (k : Ctrl) (i : Mb) (g : Mailbox → Mailbox) : (k.updMb i g).seq = k.seq := by cases i <;> rfl
@[simp] theorem updMb_cmd (k : Ctrl) (i : Mb) (g : Mailbox → Mailbox) : (k.updMb i g).cmd = k.cmd := by cases i <;> rfl
@[simp] theorem updMb_resp (k : Ctrl) (i : Mb) (g : Mailbox → Mailbox) : (k.updMb i g).resp = k.resp := by cases i <;> rfl

@[simp] theorem updMb_rf (k : Ctrl) (i : Mb) (f : Fifo) (g : Mailbox → Mailbox) : (k.updMb i g).rf f = k.rf f := by
  cases i <;> cases f <;> rfl

@[simp] theorem rf_updRf_same (k : Ctrl) (f : Fifo) (g : RxFifo → RxFifo) : (k.updRf f g).rf f = g (k.rf f) := by
  cases f <;> rfl

theorem rf_updRf_ne (k : Ctrl) {f e : Fifo} (g : RxFifo → RxFifo) (h : e ≠ f) : (k.updRf f g).rf e = k.rf e := by
  cases f <;> cases e <;> first | rfl | exact absurd rfl h

theorem rf_updRf (k : Ctrl) (f e : Fifo) (g : RxFifo → RxFifo) :
    (k.updRf f g).rf e = if e = f then g (k.rf e) else k.rf e := by
  cases f <;> cases e <;> rfl

@[simp] theorem updRf_mcr (k : Ctrl) (f : Fifo) (g : RxFifo → RxFifo) : (k.updRf f g).mcr = k.mcr := by cases f <;> rfl
@[simp] theorem updRf_msr (k : Ctrl) (f : Fifo) (g : RxFifo → RxFifo) : (k.updRf f g).msr = k.msr := by cases f <;> rfl
@[simp] theorem updRf_btr (k : Ctrl) (f : Fifo) (g : RxFifo → RxFifo) : (k.updRf f g).btr = k.btr := by cases f <;> rfl
@[simp] theorem updRf_seq (k : Ctrl) (f : Fifo) (g : RxFifo → RxFifo) : (k.updRf f g).seq = k.seq := by cases f <;> rfl
@[simp] theorem updRf_cmd (k : Ctrl) (f : Fifo) (g : RxFifo → RxFifo) : (k.updRf f g).cmd = k.cmd := by cases f <;> rfl
@[simp] theorem updRf_resp (k : Ctrl) (f : Fifo) (g : RxFifo → RxFifo) : (k.updRf f g).resp = k.resp := by cases f <;> rfl

@[simp] theorem updRf_mb (k : Ctrl) (f : Fifo) (i : Mb) (g : RxFifo → RxFifo) : (k.updRf f g).mb i = k.mb i := by
  cases f <;> cases i <;> rfl

/-! ## The sequencer record -/

@[simp] theorem updSeq_mcr (k : Ctrl) (g : Seq → Seq) : (k.updSeq g).mcr = k.mcr := rfl
@[simp] theorem updSeq_msr (k : Ctrl) (g : Seq → Seq) : (k.updSeq g).msr = k.msr := rfl
@[simp] theorem updSeq_btr (k : Ctrl) (g : Seq → Seq) : (k.updSeq g).btr = k.btr := rfl
@[simp] theorem updSeq_seq (k : Ctrl) (g : Seq → Seq) : (k.updSeq g).seq = g k.seq := rfl
@[simp] theorem updSeq_cmd (k : Ctrl) (g : Seq → Seq) : (k.updSeq g).cmd = k.cmd := rfl
@[simp] theorem updSeq_resp (k : Ctrl) (g : Seq → Seq) : (k.updSeq g).resp = k.resp := rfl
@[simp] theorem updSeq_mb (k : Ctrl) (g : Seq → Seq) (i : Mb) : (k.updSeq g).mb i = k.mb i := by cases i <;> rfl
@[simp] theorem updSeq_rf (k : Ctrl) (g : Seq → Seq) (f : Fifo) : (k.updSeq g).rf f = k.rf f := by cases f <;> rfl

@[simp] theorem updMcr_mcr (k : Ctrl) (g : McrReg → McrReg) : (k.updMcr g).mcr = g k.mcr := rfl
@[simp] theorem updMcr_msr (k : Ctrl) (g : McrReg → McrReg) : (k.updMcr g).msr = k.msr := rfl
@[simp] theorem updMcr_btr (k : Ctrl) (g : McrReg → McrReg) : (k.updMcr g).btr = k.btr := rfl
@[simp] theorem updMcr_seq (k : Ctrl) (g : McrReg → McrReg) : (k.updMcr g).seq = k.seq := rfl
@[simp] theorem updMcr_cmd (k : Ctrl) (g : McrReg → McrReg) : (k.updMcr g).cmd = k.cmd := rfl
@[simp] theorem updMcr_resp (k : Ctrl) (g : McrReg → McrReg) : (k.updMcr g).resp = k.resp := rfl
@[simp] theorem updMcr_mb (k : Ctrl) (g : McrReg → McrReg) (i : Mb) : (k.updMcr g).mb i = k.mb i := by cases i <;> rfl
@[simp] theorem updMcr_rf (k : Ctrl) (g : McrReg → McrReg) (f : Fifo) : (k.updMcr g).rf f = k.rf f := by cases f <;> rfl

@[simp] theorem writeBtr_mcr (k : Ctrl) (g : Word) : (k.writeBtr g).mcr = k.mcr := rfl
@[simp] theorem writeBtr_msr (k : Ctrl) (g : Word) : (k.writeBtr g).msr = k.msr := rfl
@[simp] theorem writeBtr_btr (k : Ctrl) (g : Word) : (k.writeBtr g).btr = btrWrite g := rfl
@[simp] theorem writeBtr_seq (k : Ctrl) (g : Word) : (k.writeBtr g).seq = k.seq := rfl
@[simp] theorem writeBtr_cmd (k : Ctrl) (g : Word) : (k.writeBtr g).cmd = k.cmd := rfl
@[simp] theorem writeBtr_resp (k : Ctrl) (g : Word) : (k.writeBtr g).resp = k.resp := rfl
@[simp] theorem writeBtr_mb (k : Ctrl) (g : Word) (i : Mb) : (k.writeBtr g).mb i = k.mb i := by cases i <;> rfl
@[simp] theorem writeBtr_rf (k : Ctrl) (g : Word) (f : Fifo) : (k.writeBtr g).rf f = k.rf f := by cases f <;> rfl

@[simp] theorem goto_mcr (k : Ctrl) (ph : Phase) : (k.goto ph).mcr = k.mcr := rfl
@[simp] theorem goto_msr (k : Ctrl) (ph : Phase) : (k.goto ph).msr = k.msr := rfl
@[simp] theorem goto_btr (k : Ctrl) (ph : Phase) : (k.goto ph).btr = k.btr := rfl
@[simp] theorem goto_cmd (k : Ctrl) (ph : Phase) : (k.goto ph).cmd = k.cmd := rfl
@[simp] theorem goto_resp (k : Ctrl) (ph : Phase) : (k.goto ph).resp = k.resp := rfl
@[simp] theorem goto_seq (k : Ctrl) (ph : Phase) : (k.goto ph).seq = { k.seq with phase := ph } := rfl
@[simp] theorem goto_mb (k : Ctrl) (ph : Phase) (i : Mb) : (k.goto ph).mb i = k.mb i := by cases i <;> rfl
@[simp] theorem goto_rf (k : Ctrl) (ph : Phase) (f : Fifo) : (k.goto ph).rf f = k.rf f := by cases f <;> rfl

@[simp] theorem log_mcr (k : Ctrl) (a : Access) : (k.log a).mcr = k.mcr := rfl
@[simp] theorem log_msr (k : Ctrl) (a : Access) : (k.log a).msr = k.msr := rfl
@[simp] theorem log_btr (k : Ctrl) (a : Access) : (k.log a).btr = k.btr := rfl
@[simp] theorem log_cmd (k : Ctrl) (a : Access) : (k.log a).cmd = k.cmd := rfl
@[simp] theorem log_resp (k : Ctrl) (a : Access) : (k.log a).resp = k.resp := rfl
@[simp] theorem log_seq (k : Ctrl) (a : Access) : (k.log a).seq = { k.seq with trace := k.seq.trace ++ [a] } := rfl
@[simp] theorem log_mb (k : Ctrl) (a : Access) (i : Mb) : (k.log a).mb i = k.mb i := by cases i <;> rfl
@[simp] theorem log_rf (k : Ctrl) (a : Access) (f : Fifo) : (k.log a).rf f = k.rf f := by cases f <;> rfl

@[simp] theorem updLatch_mcr (k : Ctrl) (g : Latch → Latch) : (k.updLatch g).mcr = k.mcr := rfl
@[simp] theorem updLatch_msr (k : Ctrl) (g : Latch → Latch) : (k.updLatch g).msr = k.msr := rfl
@[simp] theorem updLatch_btr (k : Ctrl) (g : Latch → Latch) : (k.updLatch g).btr = k.btr := rfl
@[simp] theorem updLatch_cmd (k : Ctrl) (g : Latch → Latch) : (k.updLatch g).cmd = k.cmd := rfl
@[simp] theorem updLatch_resp (k : Ctrl) (g : Latch → Latch) : (k.updLatch g).resp = k.resp := rfl
@[simp] theorem updLatch_seq (k : Ctrl) (g : Latch → Latch) : (k.updLatch g).seq = { k.seq with latch := g k.seq.latch } := rfl
@[simp] theorem updLatch_mb (k : Ctrl) (g : Latch → Latch) (i : Mb) : (k.updLatch g).mb i = k.mb i := by cases i <;> rfl
@[simp] theorem updLatch_rf (k : Ctrl) (g : Latch → Latch) (f : Fifo) : (k.updLatch g).rf f = k.rf f := by cases f <;> rfl

@[simp] theorem finish_mcr (k : Ctrl) (r : Resp) : (k.finish r).mcr = k.mcr := rfl
@[simp] theorem finish_msr (k : Ctrl) (r : Resp) : (k.finish r).msr = k.msr := rfl
@[simp] theorem finish_btr (k : Ctrl) (r : Resp) : (k.finish r).btr = k.btr := rfl
@[simp] theorem finish_cmd (k : Ctrl) (r : Resp) : (k.finish r).cmd = k.cmd := rfl
@[simp] theorem finish_resp (k : Ctrl) (r : Resp) : (k.finish r).resp = r := rfl
@[simp] theorem finish_seq (k : Ctrl) (r : Resp) : (k.finish r).seq = { k.seq with phase := .idle } := rfl
@[simp] theorem finish_mb (k : Ctrl) (r : Resp) (i : Mb) : (k.finish r).mb i = k.mb i := by cases i <;> rfl
@[simp] theorem finish_rf (k : Ctrl) (r : Resp) (f : Fifo) : (k.finish r).rf f = k.rf f := by cases f <;> rfl

theorem ret_eq (k : Ctrl) (st : Status) : k.ret st = k.finish ⟨st.code, 0, 0, 0, 0⟩ := rfl

@[simp] theorem ret_mcr (k : Ctrl) (st : Status) : (k.ret st).mcr = k.mcr := rfl
@[simp] theorem ret_msr (k : Ctrl) (st : Status) : (k.ret st).msr = k.msr := rfl
@[simp] theorem ret_btr (k : Ctrl) (st : Status) : (k.ret st).btr = k.btr := rfl
@[simp] theorem ret_cmd (k : Ctrl) (st : Status) : (k.ret st).cmd = k.cmd := rfl
@[simp] theorem ret_resp (k : Ctrl) (st : Status) : (k.ret st).resp = ⟨st.code, 0, 0, 0, 0⟩ := rfl
@[simp] theorem ret_seq (k : Ctrl) (st : Status) : (k.ret st).seq = { k.seq with phase := .idle } := rfl
@[simp] theorem ret_mb (k : Ctrl) (st : Status) (i : Mb) : (k.ret st).mb i = k.mb i := by cases i <;> rfl
@[simp] theorem ret_rf (k : Ctrl) (st : Status) (f : Fifo) : (k.ret st).rf f = k.rf f := by cases f <;> rfl

@[simp] theorem start_mcr (k : Ctrl) (ph : Phase) : (k.start ph).mcr = k.mcr := rfl
@[simp] theorem start_msr (k : Ctrl) (ph : Phase) : (k.start ph).msr = k.msr := rfl
@[simp] theorem start_btr (k : Ctrl) (ph : Phase) : (k.start ph).btr = k.btr := rfl
@[simp] theorem start_cmd (k : Ctrl) (ph : Phase) : (k.start ph).cmd = none := rfl
@[simp] theorem start_resp (k : Ctrl) (ph : Phase) : (k.start ph).resp = k.resp := rfl
@[simp] theorem start_phase (k : Ctrl) (ph : Phase) : (k.start ph).seq.phase = ph := rfl
@[simp] theorem start_trace (k : Ctrl) (ph : Phase) : (k.start ph).seq.trace = [] := rfl
@[simp] theorem start_inited (k : Ctrl) (ph : Phase) : (k.start ph).seq.inited = k.seq.inited := rfl
@[simp] theorem start_mb (k : Ctrl) (ph : Phase) (i : Mb) : (k.start ph).mb i = k.mb i := by cases i <;> rfl
@[simp] theorem start_rf (k : Ctrl) (ph : Phase) (f : Fifo) : (k.start ph).rf f = k.rf f := by cases f <;> rfl

/-! ## Busy -/

theorem busy_iff (q : Seq) : q.busy = true ↔ q.phase ≠ .idle := by
  cases h : q.phase <;> simp [Seq.busy, h]

theorem not_busy_iff (q : Seq) : q.busy = false ↔ q.phase = .idle := by
  cases h : q.phase <;> simp [Seq.busy, h]

theorem State.busy_def (s : State) (c : Inst) : s.busy c = (s.ctrl c).seq.busy := rfl

/-! ## `andThen` -/

@[simp] theorem andThen_next (s : State) (k : State → Out) : andThen (.next s) k = k s := rfl
@[simp] theorem andThen_fault (r : Fault) (k : State → Out) : andThen (.fault r) k = .fault r := rfl
@[simp] theorem andThen_refused (r : Refusal) (k : State → Out) : andThen (.refused r) k = .refused r := rfl

/-- A run that reaches a next state reaches an intermediate one. -/
theorem andThen_eq_next {o : Out} {k : State → Out} {t : State} :
    andThen o k = .next t ↔ ∃ m, o = .next m ∧ k m = .next t := by
  cases o <;> simp [andThen]

end Sys2Proof.Machine
end

