-- ==== Sys2Proof/Laws/Steps.lean ====
section
/-! SUPPORT. What one step of a SEQ, one step of BUS and one turn can do, said once. -/

namespace Sys2Proof.Machine

/-! ## Register reads -/

/-- The state a register read hands on: the access is recorded and a free value is drawn (R63, R83). -/
def State.afterRead (s : State) (c : Inst) (r : Reg) : State :=
  ({ s with draws := s.draws + 1 } : State).upd c (·.log (.R r))

theorem regRead_eq_next {c : Inst} {r : Reg} {s t : State} {k : Word → State → Out} :
    regRead c r s k = .next t ↔ ∃ v, s.regView (Config.freeWord s.draws) r = some v ∧ k v (s.afterRead c r) = .next t := by
  unfold regRead State.afterRead
  split <;> simp [*]

theorem regRead_some {c : Inst} {r : Reg} {s : State} {v : Word} {k : Word → State → Out}
    (h : s.regView (Config.freeWord s.draws) r = some v) : regRead c r s k = k v (s.afterRead c r) := by
  simp [regRead, State.afterRead, h]

@[simp] theorem afterRead_ctrl (s : State) (c : Inst) (r : Reg) :
    (s.afterRead c r).ctrl c = (s.ctrl c).log (.R r) := by simp [State.afterRead]

theorem afterRead_ctrl_ne (s : State) {c d : Inst} (r : Reg) (h : d ≠ c) : (s.afterRead c r).ctrl d = s.ctrl d := by
  simp [State.afterRead, ctrl_upd_ne _ _ h]

@[simp] theorem afterRead_flt (s : State) (c : Inst) (r : Reg) : (s.afterRead c r).flt = s.flt := by simp [State.afterRead]
@[simp] theorem afterRead_cfg (s : State) (c : Inst) (r : Reg) : (s.afterRead c r).cfg = s.cfg := by simp [State.afterRead]
@[simp] theorem afterRead_env (s : State) (c : Inst) (r : Reg) : (s.afterRead c r).env = s.env := by simp [State.afterRead]

@[simp] theorem afterRead_active (s : State) (c : Inst) (r : Reg) : (s.afterRead c r).active = s.active := by
  simp [State.afterRead]

@[simp] theorem afterRead_codec (s : State) (c : Inst) (r : Reg) : (s.afterRead c r).codec = s.codec := by
  simp [State.afterRead]

theorem afterRead_upd (s : State) (c : Inst) (r : Reg) (g : Ctrl → Ctrl) :
    (s.afterRead c r).upd c g = ({ s with draws := s.draws + 1 } : State).upd c fun k => g (k.log (.R r)) := by
  simp [State.afterRead]

/-! ## What every step of a SEQ leaves alone -/

/-- The parts of the state that no agent's turn writes (R9; log 1, log 19). -/
def State.sameFrame (s t : State) : Prop := t.cfg = s.cfg ∧ t.active = s.active ∧ t.env = s.env ∧ t.codec = s.codec

theorem State.sameFrame.refl (s : State) : s.sameFrame s := ⟨rfl, rfl, rfl, rfl⟩

theorem State.sameFrame.trans {s t u : State} (h : s.sameFrame t) (g : t.sameFrame u) : s.sameFrame u :=
  ⟨g.1.trans h.1, g.2.1.trans h.2.1, g.2.2.1.trans h.2.2.1, g.2.2.2.trans h.2.2.2⟩

theorem collabReset_eq_next {s t : State} (h : collabReset s = .next t) :
    (t = s.resetPrimary ∨ (t = s.resetPrimary.resetSecondary ∧ s.busy .secondary = false)) := by
  unfold collabReset at h
  split at h
  · simp at h; exact .inl h.symm
  · split at h
    · cases hb : s.busy .secondary <;> simp [hb] at h
      exact .inr ⟨h.symm, rfl⟩
    · simp at h; exact .inl h.symm

theorem collabReset_frame {s t : State} (h : collabReset s = .next t) : s.sameFrame t := by
  obtain rfl | ⟨rfl, -⟩ := collabReset_eq_next h <;> exact ⟨rfl, rfl, rfl, rfl⟩

theorem initStep_frame {c : Inst} {op : InitOp} {a : InitStep} {s t : State} (h : initStep c op a s = .next t) :
    s.sameFrame t := by
  cases a <;> simp only [initStep, regRead_eq_next] at h
  case i4 =>
    obtain ⟨v, -, h⟩ := h
    split at h <;> (cases h; exact ⟨by simp, by simp, by simp, by simp⟩)
  case i8 =>
    split at h
    · obtain ⟨v, -, h⟩ := regRead_eq_next.1 h
      split at h <;> (cases h; exact ⟨by simp, by simp, by simp, by simp⟩)
    · cases h; exact ⟨by simp, by simp, by simp, by simp⟩
  case i2 =>
    cases c
    · obtain ⟨m, hm, h⟩ := andThen_eq_next.1 h
      obtain ⟨h1, h2, h3, h4⟩ := collabReset_frame hm
      cases h
      exact ⟨by simpa using h1, by simpa using h2, by simpa using h3, by simpa using h4⟩
    · cases h; exact ⟨by simp, by simp, by simp, by simp⟩
  all_goals
    repeat' split at h
    all_goals (cases h; exact ⟨by simp, by simp, by simp, by simp⟩)

theorem writeInInit_eq_next {s t u : State} : writeInInit s t = .next u ↔ s.flt.finit = true ∧ t = u := by
  unfold writeInInit
  split <;> simp [*]

theorem filterStep_frame {c : Inst} {op : FilterOp} {a : FilterStep} {s t : State}
    (h : filterStep c op a s = .next t) : s.sameFrame t := by
  cases a <;> simp only [filterStep, writeInInit_eq_next] at h
  all_goals
    repeat' split at h
    all_goals first
      | (cases h; exact ⟨by simp, by simp, by simp, by simp⟩)
      | (obtain ⟨-, rfl⟩ := h; exact ⟨by simp, by simp, by simp, by simp⟩)

theorem txStep_frame {c : Inst} {fr : Frame} {a : TxStep} {s t : State} (h : txStep c fr a s = .next t) :
    s.sameFrame t := by
  cases a <;> simp only [txStep, regRead_eq_next] at h
  all_goals
    repeat' split at h
    all_goals first
      | (cases h; exact ⟨by simp, by simp, by simp, by simp⟩)
      | (obtain ⟨v, -, h⟩ := h; cases h; exact ⟨by simp, by simp, by simp, by simp⟩)

theorem rxStep_frame {c : Inst} {f : Fifo} {a : RxStep} {s t : State} (h : rxStep c f a s = .next t) :
    s.sameFrame t := by
  cases a <;> simp only [rxStep, regRead_eq_next] at h
  all_goals
    repeat' split at h
    all_goals first
      | (cases h; exact ⟨by simp, by simp, by simp, by simp⟩)
      | (obtain ⟨v, -, h⟩ := h; cases h; exact ⟨by simp, by simp, by simp, by simp⟩)

/-- A step of a SEQ changes neither the parameters nor the schedule. -/
theorem seqStep_frame {c : Inst} {s t : State} (h : seqStep c s = .next t) : s.sameFrame t := by
  unfold seqStep at h
  split at h
  · split at h
    · cases h; exact .refl _
    · cases h; exact ⟨by simp, by simp, by simp, by simp⟩
  · exact initStep_frame h
  · exact filterStep_frame h
  · exact txStep_frame h
  · exact rxStep_frame h

/-! ## BUS (45_bus_engine.md) -/

/-- Everything a step of BUS can do (R216 to R234): it changes its own instance's mode acknowledgements, one mailbox by
concluding its request, or one FIFO at its tail. -/
theorem busStep_cases {c : Inst} {e : BusStep} {s t : State} (h : busStep c e s = some t) :
    (∃ r : MsrReg, t = s.upd c fun k => { k with msr := r }) ∨
    (∃ i sent, (s.ctrl c).normalMode = true ∧ ((s.ctrl c).mb i).ti.txrq = true ∧
      t = s.upd c fun k => k.updMb i (Mailbox.conclude sent)) ∨
    (∃ f img, (s.ctrl c).normalMode = true ∧ s.flt.finit = false ∧ ((s.ctrl c).rf f).queue.length < fifoDepth ∧
      t = s.upd c fun k => k.updRf f (·.deposit img)) ∨
    (∃ f img, (s.ctrl c).normalMode = true ∧ s.flt.finit = false ∧ ((s.ctrl c).rf f).queue.length = fifoDepth ∧
      t = s.upd c fun k => k.updRf f (·.overrun k.mcr.rflm img)) := by
  cases e <;> simp only [busStep, Option.ite_none_right_eq_some, Option.some.injEq, Bool.and_eq_true,
    decide_eq_true_eq, Ctrl.canSend, Ctrl.canEnd, State.canReceive] at h
  case inakSet => obtain ⟨-, rfl⟩ := h; exact .inl ⟨{ (s.ctrl c).msr with inak := true }, by cases c <;> rfl⟩
  case inakClr => obtain ⟨-, rfl⟩ := h; exact .inl ⟨{ (s.ctrl c).msr with inak := false }, by cases c <;> rfl⟩
  case slakClr => obtain ⟨-, rfl⟩ := h; exact .inl ⟨{ (s.ctrl c).msr with slak := false }, by cases c <;> rfl⟩
  case txOk i => obtain ⟨⟨⟨h1, h2⟩, -⟩, rfl⟩ := h; exact .inr (.inl ⟨i, true, h1, h2, rfl⟩)
  case txEnd i => obtain ⟨⟨⟨h1, h2⟩, -⟩, rfl⟩ := h; exact .inr (.inl ⟨i, false, h1, h2, rfl⟩)
  case deposit f fr j =>
    obtain ⟨⟨⟨⟨h1, h2⟩, -⟩, h3⟩, rfl⟩ := h
    exact .inr (.inr (.inl ⟨f, storedImage fr j, h1, by simpa using h2, h3, rfl⟩))
  case overrun f fr j =>
    obtain ⟨⟨⟨⟨h1, h2⟩, -⟩, h3⟩, rfl⟩ := h
    exact .inr (.inr (.inr ⟨f, storedImage fr j, h1, by simpa using h2, h3, rfl⟩))

/-- What BUS of instance `c` never touches on that instance (R237), for use in proofs about a running command. -/
structure Ctrl.busKept (k l : Ctrl) : Prop where
  mcr : l.mcr = k.mcr
  btr : l.btr = k.btr
  seq : l.seq = k.seq
  cmd : l.cmd = k.cmd
  resp : l.resp = k.resp
  contents : ∀ i, (l.mb i).contents = (k.mb i).contents
  tme : ∀ i, (k.mb i).tme = true → (l.mb i).tme = true
  txrq : ∀ i, (l.mb i).ti.txrq = true → (k.mb i).ti.txrq = true
  mb : ∀ i, (k.mb i).ti.txrq = false → l.mb i = k.mb i
  head : ∀ f e q, (k.rf f).queue = e :: q → ∃ q', (l.rf f).queue = e :: q'
  length : ∀ f, (k.rf f).queue.length ≤ (l.rf f).queue.length

theorem Ctrl.busKept.refl (k : Ctrl) : k.busKept k :=
  ⟨rfl, rfl, rfl, rfl, rfl, fun _ => rfl, fun _ => id, fun _ => id, fun _ _ => rfl, fun _ _ q h => ⟨q, h⟩, fun _ => le_rfl⟩

theorem busStep_flt {c : Inst} {e : BusStep} {s t : State} (h : busStep c e s = some t) : t.flt = s.flt := by
  obtain ⟨r, rfl⟩ | ⟨i, b, -, -, rfl⟩ | ⟨f, im, -, -, -, rfl⟩ | ⟨f, im, -, -, -, rfl⟩ := busStep_cases h <;> simp

theorem busStep_frame {c : Inst} {e : BusStep} {s t : State} (h : busStep c e s = some t) : s.sameFrame t := by
  obtain ⟨r, rfl⟩ | ⟨i, b, -, -, rfl⟩ | ⟨f, im, -, -, -, rfl⟩ | ⟨f, im, -, -, -, rfl⟩ := busStep_cases h <;>
    exact ⟨by simp, by simp, by simp, by simp⟩

theorem busStep_draws {c : Inst} {e : BusStep} {s t : State} (h : busStep c e s = some t) : t.draws = s.draws := by
  obtain ⟨r, rfl⟩ | ⟨i, b, -, -, rfl⟩ | ⟨f, im, -, -, -, rfl⟩ | ⟨f, im, -, -, -, rfl⟩ := busStep_cases h <;> simp

theorem conclude_contents (b : Bool) (m : Mailbox) : (m.conclude b).contents = m.contents := rfl

theorem busStep_kept {c : Inst} {e : BusStep} {s t : State} (h : busStep c e s = some t) (d : Inst) :
    (s.ctrl d).busKept (t.ctrl d) := by
  by_cases hd : d = c
  · subst hd
    obtain ⟨r, rfl⟩ | ⟨i, b, -, hq, rfl⟩ | ⟨f, im, -, -, -, rfl⟩ | ⟨f, im, -, -, hl, rfl⟩ := busStep_cases h
    · simp only [ctrl_upd_same]
      exact ⟨rfl, rfl, rfl, rfl, rfl, fun i => by cases i <;> rfl, fun i => by cases i <;> exact id,
        fun i => by cases i <;> exact id, fun i _ => by cases i <;> rfl,
        fun f _ q hx => ⟨q, by cases f <;> exact hx⟩, fun f => by cases f <;> exact le_rfl⟩
    · simp only [ctrl_upd_same]
      refine ⟨by simp, by simp, by simp, by simp, by simp, fun j => ?_, fun j hj => ?_, fun j hj => ?_, fun j hj => ?_,
        fun f _ q h => ⟨q, by simpa using h⟩, fun f => by simp⟩
      · rw [mb_updMb]; split <;> rfl
      · rw [mb_updMb]; split
        · rfl
        · exact hj
      · rw [mb_updMb] at hj; split at hj
        · cases hj
        · exact hj
      · rw [mb_updMb]; split
        · rename_i hji; subst hji; rw [hq] at hj; cases hj
        · rfl
    · simp only [ctrl_upd_same]
      refine ⟨by simp, by simp, by simp, by simp, by simp, fun j => by simp, fun j hj => by simpa using hj,
        fun j hj => by simpa using hj, fun j _ => by simp, fun g x q hx => ?_, fun g => ?_⟩
      · rw [rf_updRf]; split
        · exact ⟨q ++ [im], by simp [RxFifo.deposit, hx]⟩
        · exact ⟨q, hx⟩
      · rw [rf_updRf]; split
        · simp [RxFifo.deposit]
        · exact le_rfl
    · simp only [ctrl_upd_same]
      refine ⟨by simp, by simp, by simp, by simp, by simp, fun j => by simp, fun j hj => by simpa using hj,
        fun j hj => by simpa using hj, fun j _ => by simp, fun g x q hx => ?_, fun g => ?_⟩
      · rw [rf_updRf]; split
        · rename_i hg; subst hg
          simp only [RxFifo.overrun]
          split
          · exact ⟨q, hx⟩
          · obtain _ | ⟨y, q⟩ := q
            · rw [hx] at hl; simp [fifoDepth] at hl
            · exact ⟨(y :: q).dropLast ++ [im], by simp [hx]⟩
        · exact ⟨q, hx⟩
      · rw [rf_updRf]; split
        · rename_i hg; subst hg
          simp only [RxFifo.overrun]
          split
          · exact le_rfl
          · simp [hl, fifoDepth]
        · exact le_rfl
  · have : t.ctrl d = s.ctrl d := by
      obtain ⟨r, rfl⟩ | ⟨i, b, -, -, rfl⟩ | ⟨f, im, -, -, -, rfl⟩ | ⟨f, im, -, -, -, rfl⟩ := busStep_cases h <;>
        exact ctrl_upd_ne _ _ hd
    rw [this]; exact .refl _

end Sys2Proof.Machine
end

