-- ==== Sys2Proof/Laws/Agents.lean ====
section
/-! SUPPORT. Runs of a command (20_memory.md R78): the measure that its steps go down, and the induction principles that
carry a property from the issue of a command to its end. -/

namespace Sys2Proof.Machine

/-! ## The measure -/

/-- A bound on the steps a sequencer makes until its command ends or waits for BUS. -/
def Seq.stepsLeft (q : Seq) (budget : Nat) : Nat :=
  match q.phase with
  | .idle => 0
  | .init _ a =>
    match a with
    | .i0 => 10 | .i1 => 9 | .i2 => 8 | .i3 => 7 | .i4 => 6 | .i5 => 5 | .i6 => 4 | .i7 => 3 | .i8 => 2 | .i9 => 1
  | .filter _ a =>
    match a with
    | .f0 => 11 | .f1 => 10 | .f2 => 9 | .f3 => 8 | .f4 => 7 | .f5 => 6 | .f6 => 5 | .f7a => 4 | .f7b => 3 | .f8 => 2
    | .f9 => 1
  | .tx _ a =>
    match a with
    | .t1 => budget + 10 | .t2 => budget + 9 | .t3 _ => budget + 8 | .t4 _ => budget + 7 | .t5a _ => budget + 6
    | .t5b _ => budget + 5 | .t6 => budget + 4 | .t7 => budget + 3 | .t8 => budget - q.tick + 2 | .t9 => 1
  | .rx _ a =>
    match a with
    | .x1 => 7 | .x2 => 6 | .x3 => 5 | .x4 => 4 | .x5 => 3 | .x6 => 2 | .x7 _ => 1

/-- The measure of instance `c`. -/
def State.stepsLeft (s : State) (c : Inst) : Nat := (s.ctrl c).seq.stepsLeft s.cfg.txTickBudget

theorem stepsLeft_le_fuel (s : State) (c : Inst) : s.stepsLeft c ≤ s.fuel := by
  unfold State.stepsLeft State.fuel Seq.stepsLeft
  repeat' split
  all_goals omega

theorem initStep_stepsLeft {c : Inst} {op : InitOp} {a : InitStep} {s t : State}
    (hp : (s.ctrl c).seq.phase = .init op a) (hw : s.waiting c = false) (h : initStep c op a s = .next t) :
    t.stepsLeft c < s.stepsLeft c := by
  simp only [State.waiting, hp] at hw
  cases a <;> simp only [initStep, regRead_eq_next] at h
  case i4 =>
    obtain ⟨v, -, h⟩ := h
    simp at hw
    simp only [afterRead_ctrl, log_msr, hw, if_true] at h
    cases h; simp [State.stepsLeft, Seq.stepsLeft, hp]
  case i8 =>
    split at h
    · rename_i he
      obtain ⟨v, -, h⟩ := regRead_eq_next.1 h
      have hi : (s.ctrl c).msr.inak = false := by simpa [he] using hw
      simp only [afterRead_ctrl, log_msr, hi] at h
      cases h; simp [State.stepsLeft, Seq.stepsLeft, hp]
    · cases h; simp [State.stepsLeft, Seq.stepsLeft, hp]
  case i2 =>
    cases c
    · obtain ⟨m, hm, h⟩ := andThen_eq_next.1 h
      have hc := (collabReset_frame hm).1
      cases h
      simp [State.stepsLeft, Seq.stepsLeft, hp]
    · cases h; simp [State.stepsLeft, Seq.stepsLeft, hp]
  all_goals
    repeat' split at h
    all_goals (cases h; simp [State.stepsLeft, Seq.stepsLeft, hp])

theorem filterStep_stepsLeft {c : Inst} {op : FilterOp} {a : FilterStep} {s t : State}
    (hp : (s.ctrl c).seq.phase = .filter op a) (h : filterStep c op a s = .next t) : t.stepsLeft c < s.stepsLeft c := by
  cases a <;> simp only [filterStep, writeInInit_eq_next] at h
  case f4 | f5 | f6 | f7a | f7b => obtain ⟨-, rfl⟩ := h; simp [State.stepsLeft, Seq.stepsLeft, hp]
  all_goals
    repeat' split at h
    all_goals (cases h; simp [State.stepsLeft, Seq.stepsLeft, hp])

theorem txStep_stepsLeft {c : Inst} {fr : Frame} {a : TxStep} {s t : State}
    (hp : (s.ctrl c).seq.phase = .tx fr a) (h : txStep c fr a s = .next t) : t.stepsLeft c < s.stepsLeft c := by
  cases a <;> simp only [txStep, regRead_eq_next] at h
  case t1 =>
    obtain ⟨v, -, h⟩ := h
    cases h
    simp only [State.stepsLeft, ctrl_upd_same, upd_cfg, afterRead_cfg, Ctrl.arbitrate]
    split <;> simp [Seq.stepsLeft, hp]
  case t2 => split at h <;> (cases h; simp [State.stepsLeft, Seq.stepsLeft, hp])
  case t4 img => cases h; cases img.hasData <;> simp [State.stepsLeft, Seq.stepsLeft, hp]
  case t8 =>
    obtain ⟨v, -, h⟩ := h
    cases h
    simp only [State.stepsLeft, ctrl_upd_same, upd_cfg, afterRead_cfg, afterRead_ctrl, Ctrl.poll]
    split
    · simp [Seq.stepsLeft, hp]
    · split
      · simp [Seq.stepsLeft, hp] at *; omega
      · simp [Seq.stepsLeft, hp]
  all_goals (cases h; simp [State.stepsLeft, Seq.stepsLeft, hp])

theorem rxStep_stepsLeft {c : Inst} {f : Fifo} {a : RxStep} {s t : State}
    (hp : (s.ctrl c).seq.phase = .rx f a) (h : rxStep c f a s = .next t) : t.stepsLeft c < s.stepsLeft c := by
  cases a <;> simp only [rxStep, regRead_eq_next] at h
  case x1 =>
    obtain ⟨v, -, h⟩ := h; cases h
    simp only [State.stepsLeft, ctrl_upd_same, upd_cfg, afterRead_cfg, Ctrl.checkPending]
    split <;> simp [Seq.stepsLeft, hp]
  case x6 => split at h <;> (cases h; simp [State.stepsLeft, Seq.stepsLeft, hp])
  case x7 => cases h; simp [State.stepsLeft, Seq.stepsLeft, hp]
  all_goals (obtain ⟨v, -, h⟩ := h; cases h; simp [State.stepsLeft, Seq.stepsLeft, hp])

/-- A step of a running command that is not at an unsatisfied `await` goes down the measure (R57). -/
theorem seqStep_stepsLeft {c : Inst} {s t : State} (hb : s.busy c = true) (hw : s.waiting c = false)
    (h : seqStep c s = .next t) : t.stepsLeft c < s.stepsLeft c := by
  unfold seqStep at h
  split at h
  · rename_i hp; rw [State.busy_def, busy_iff] at hb; exact absurd hp hb
  · exact initStep_stepsLeft ‹_› hw h
  · exact filterStep_stepsLeft ‹_› h
  · exact txStep_stepsLeft ‹_› h
  · exact rxStep_stepsLeft ‹_› h

/-! ## Turns -/

/-- Everything a turn can do (R78). -/
theorem turn_cases {x : Turn} {s t : State} (h : turn x s = .next t) :
    (∃ c b, x = .host c b ∧ s.busy c = false ∧ (s.ctrl c).cmd = none ∧ t = s.upd c fun k => { k with cmd := some b }) ∨
    (∃ c, x = .seq c ∧ seqStep c s = .next t) ∨
    (∃ c e, x = .bus c e ∧ (busStep c e s = some t ∨ t = s)) := by
  unfold turn at h
  split at h
  · cases x with
    | host c b =>
      simp only [hostTurn] at h
      split at h
      · cases h
      · rename_i hn
        cases h
        simp at hn
        exact .inl ⟨c, b, rfl, hn.1, hn.2, rfl⟩
    | seq c => exact .inr (.inl ⟨c, rfl, h⟩)
    | bus c e =>
      refine .inr (.inr ⟨c, e, rfl, ?_⟩)
      cases hb : busStep c e s <;> simp [hb] at h <;> simp [h]
  · cases h

theorem turn_frame {x : Turn} {s t : State} (h : turn x s = .next t) : s.sameFrame t := by
  obtain ⟨c, b, -, -, -, rfl⟩ | ⟨c, -, h⟩ | ⟨c, e, -, h | rfl⟩ := turn_cases h
  · exact ⟨by simp, by simp, by simp, by simp⟩
  · exact seqStep_frame h
  · exact busStep_frame h
  · exact .refl _

/-! ## Induction over a run -/

/-- What a run of a command alone keeps: any property its steps keep. -/
theorem runAlone_induct {P : State → Prop} {c : Inst}
    (hseq : ∀ s t, P s → s.busy c = true → seqStep c s = .next t → P t) :
    ∀ n s t, P s → runAlone c n s = .next t → P t := by
  intro n
  induction n with
  | zero => intro s t hp h; cases h; exact hp
  | succ n ih =>
    intro s t hp h
    unfold runAlone at h
    split at h
    · obtain ⟨m, hm, h⟩ := andThen_eq_next.1 h
      exact ih m t (hseq s m hp (by simp_all) hm) h
    · cases h; exact hp

/-- What a run of a command under any turns keeps. -/
theorem runTurns_induct {P : State → Prop} {c : Inst}
    (hseq : ∀ s t, P s → s.busy c = true → seqStep c s = .next t → P t)
    (hturn : ∀ x s t, P s → turn x s = .next t → P t)
    (henv : ∀ s e, P s → P { s with env := e }) :
    ∀ ts s t, P s → runTurns c ts s = .next t → P t := by
  intro ts
  induction ts with
  | nil => intro s t hp h; exact runAlone_induct hseq _ _ _ (henv s [] hp) h
  | cons x ts ih =>
    intro s t hp h
    unfold runTurns at h
    split at h
    · obtain ⟨m, hm, h⟩ := andThen_eq_next.1 h
      exact ih m t (hturn x _ m (henv s ts hp) hm) h
    · cases h; exact henv s _ hp

/-- A run alone ends: with the command's end, or at an `await` that BUS has to end. -/
theorem runAlone_ends {c : Inst} :
    ∀ n s t, s.stepsLeft c ≤ n → runAlone c n s = .next t → t.busy c = false ∨ t.waiting c = true := by
  intro n
  induction n with
  | zero =>
    intro s t hn h
    cases h
    left
    rw [State.busy_def, not_busy_iff]
    unfold State.stepsLeft Seq.stepsLeft at hn
    split at hn
    · assumption
    all_goals (split at hn <;> omega)
  | succ n ih =>
    intro s t hn h
    unfold runAlone at h
    split at h
    · rename_i hc
      simp at hc
      obtain ⟨m, hm, h⟩ := andThen_eq_next.1 h
      have := seqStep_stepsLeft hc.1 hc.2 hm
      exact ih m t (by omega) h
    · rename_i hc
      cases h
      cases hb : s.busy c <;> simp_all

/-- A run under any turns ends so as well, unless it stops or turns are left over after the command's end. -/
theorem runTurns_ends {c : Inst} :
    ∀ ts s t, runTurns c ts s = .next t → t.busy c = false ∨ t.waiting c = true := by
  intro ts
  induction ts with
  | nil =>
    intro s t h
    refine runAlone_ends _ _ _ ?_ h
    have : ({ s with env := [] } : State).stepsLeft c = s.stepsLeft c := by simp [State.stepsLeft]
    rw [this]; exact stepsLeft_le_fuel s c
  | cons x ts ih =>
    intro s t h
    unfold runTurns at h
    split at h
    · obtain ⟨m, hm, h⟩ := andThen_eq_next.1 h
      exact ih m t h
    · rename_i hb
      cases h
      left
      simpa [State.busy_def] using hb

/-- Only an `INIT` waits (R201, R251). -/
theorem waiting_init {s : State} {c : Inst} (h : s.waiting c = true) :
    ∃ op, (s.ctrl c).seq.phase = .init op .i4 ∨ (s.ctrl c).seq.phase = .init op .i8 := by
  unfold State.waiting at h
  split at h
  · exact ⟨_, .inl ‹_›⟩
  · exact ⟨_, .inr ‹_›⟩
  · cases h

theorem waiting_busy {s : State} {c : Inst} (h : s.waiting c = true) : s.busy c = true := by
  obtain ⟨op, hp | hp⟩ := waiting_init h <;> simp [State.busy_def, busy_iff, hp]

/-! ## Runs in which only BUS moves beside the command -/

/-- A property that the command's own steps keep and never leave through a stop, and that BUS keeps, carries a run to a
next state. -/
theorem runAlone_reaches {P : State → Prop} {c : Inst}
    (hseq : ∀ s, P s → s.busy c = true → ∃ t, seqStep c s = .next t ∧ P t) :
    ∀ n s, P s → ∃ t, runAlone c n s = .next t ∧ P t := by
  intro n
  induction n with
  | zero => intro s hp; exact ⟨s, rfl, hp⟩
  | succ n ih =>
    intro s hp
    unfold runAlone
    split
    · rename_i hc
      simp at hc
      obtain ⟨m, hm, hpm⟩ := hseq s hp hc.1
      obtain ⟨t, ht, hpt⟩ := ih m hpm
      exact ⟨t, by simp [hm, ht], hpt⟩
    · exact ⟨s, rfl, hp⟩

theorem runTurns_reaches {P : State → Prop} {c : Inst}
    (hseq : ∀ s, P s → s.busy c = true → ∃ t, seqStep c s = .next t ∧ P t)
    (hbus : ∀ d e s t, P s → busStep d e s = some t → P t)
    (henv : ∀ s e, P s → P { s with env := e }) :
    ∀ ts s, P s → (ts.all fun x => x.ownOrBus c && s.present x.inst) = true →
      ∃ t, runTurns c ts s = .next t ∧ P t ∧ (t.busy c = false ∨ t.waiting c = true) := by
  intro ts
  induction ts with
  | nil =>
    intro s hp _
    obtain ⟨t, ht, hpt⟩ := runAlone_reaches hseq s.fuel { s with env := [] } (henv s [] hp)
    exact ⟨t, ht, hpt, runTurns_ends [] s t ht⟩
  | cons x ts ih =>
    intro s hp hq
    simp only [List.all_cons, Bool.and_eq_true] at hq
    by_cases hb : s.busy c = true
    · have hpe := henv s ts hp
      have key : ∃ m, turn x { s with env := ts } = .next m ∧ P m := by
        cases x with
        | host d b => simp [Turn.ownOrBus] at hq
        | seq d =>
          have hd : d = c := by simpa [Turn.ownOrBus] using hq.1.1
          subst hd
          obtain ⟨m, hm, hpm⟩ := hseq { s with env := ts } hpe (by simpa [State.busy_def] using hb)
          exact ⟨m, by simp only [turn, present_withEnv, hq.1.2, if_true, hm], hpm⟩
        | bus d e =>
          simp only [turn, present_withEnv, hq.1.2, if_true]
          cases he : busStep d e { s with env := ts } with
          | none => exact ⟨_, rfl, hpe⟩
          | some m => exact ⟨m, rfl, hbus d e _ m hpe he⟩
      obtain ⟨m, hm, hpm⟩ := key
      have hcfg : m.cfg = s.cfg := (turn_frame hm).1
      have hpr : ∀ d, m.present d = s.present d := fun d => by cases d <;> simp [State.present, hcfg]
      obtain ⟨t, ht, hpt⟩ := ih m hpm (by simpa [hpr] using hq.2)
      exact ⟨t, by simp [runTurns, hb, hm, ht], hpt⟩
    · refine ⟨{ s with env := x :: ts }, by simp [runTurns, hb], henv s _ hp, .inl ?_⟩
      simpa [State.busy_def] using hb

end Sys2Proof.Machine
end

