-- ==== Sys2Proof/Laws/Words.lean ====
section
/-! SUPPORT. What the words are made of: flag bits, bank bits, identifier images, payload lanes (10_state.md R22 to R24,
R44; 30_encoding.md R100, R101; 40_codec.md R121, R126), the arbiter (41_transmit.md R142), and how a command begins. -/

namespace Sys2Proof.Machine

/-! ## Bits -/

theorem flagBit_getLsbD (n i : Nat) (b : Bool) : (flagBit n b).getLsbD i = (decide (i = n ∧ i < 32) && b) := by
  cases b <;> simp [flagBit]
  by_cases h : i < 32 <;> simp [h]
  by_cases h2 : i < n <;> simp [h2] <;> omega

@[simp] theorem flagBit_getElem (n i : Nat) (b : Bool) (h : i < 32) : (flagBit n b)[i] = (decide (i = n) && b) := by
  rw [← BitVec.getLsbD_eq_getElem, flagBit_getLsbD]; simp [h]

theorem setBit_getLsbD (r : BitVec 28) (b : Nat) (v : Bool) (i : Nat) :
    (setBit r b v).getLsbD i = if i = b ∧ i < 28 then v else r.getLsbD i := by
  by_cases h : i < 28
  · cases v <;> simp [setBit, h]
    all_goals
      by_cases h2 : i < b
      · simp [h2]; intro h3; omega
      · by_cases h3 : i = b
        · simp [h3]
        · have : i - b ≠ 0 := by omega
          simp [h2, h3, this]
  · simp [h, BitVec.getLsbD_of_ge _ _ (Nat.le_of_not_lt h)]

theorem setReg_getElem (v : Vector Word 28) (b : Nat) (w : Word) (i : Nat) (h : i < 28) :
    (setReg v b w)[i] = if b = i then w else v[i] := by
  simp [setReg, Vector.getElem_setIfInBounds]

theorem idImage_base_getLsbD (n : BitVec 11) (rtr : Bool) (i : Nat) :
    (idImage (.base n) rtr).getLsbD i = ((decide (21 ≤ i ∧ i < 32) && n.getLsbD (i - 21)) || (decide (i = 1) && rtr)) := by
  by_cases h : i < 32
  · by_cases h2 : i < 21
    · simp [idImage, h, h2]
    · have : i ≠ 1 := by omega
      simp [idImage, h, h2, this]; omega
  · have : i ≠ 1 := by omega
    simp [h, this, BitVec.getLsbD_of_ge _ _ (Nat.le_of_not_lt h)]

theorem idImage_ext_getLsbD (n : BitVec 29) (rtr : Bool) (i : Nat) :
    (idImage (.ext n) rtr).getLsbD i =
      ((decide (3 ≤ i ∧ i < 32) && n.getLsbD (i - 3)) || decide (i = 2) || (decide (i = 1) && rtr)) := by
  by_cases h : i < 32
  · by_cases h2 : i < 3
    · have : ¬ 3 ≤ i := by omega
      simp [idImage, h, h2, this]
    · have : i ≠ 1 := by omega
      have : i ≠ 2 := by omega
      simp [idImage, *]; omega
  · have : i ≠ 1 := by omega
    have : i ≠ 2 := by omega
    simp [*, BitVec.getLsbD_of_ge _ _ (Nat.le_of_not_lt h)]

/-- The identifier image is read back (R121, R126), whatever bit 0 holds. -/
theorem imageId_idImage (id : Identifier) (rtr j : Bool) : imageId (idImage id rtr ||| flagBit 0 j) = id := by
  cases id with
  | base n =>
    have h2 : (idImage (.base n) rtr ||| flagBit 0 j).getLsbD 2 = false := by
      rw [BitVec.getLsbD_or, idImage_base_getLsbD, flagBit_getLsbD]; simp
    have h : (idImage (.base n) rtr ||| flagBit 0 j).extractLsb' 21 11 = n := by
      ext i hi
      have : 21 + i ≠ 1 := by omega
      simp [BitVec.getElem_extractLsb', BitVec.getLsbD_or, idImage_base_getLsbD, flagBit_getLsbD, hi, this]; omega
    simp only [imageId, h2, h]; simp
  | ext n =>
    have h2 : (idImage (.ext n) rtr ||| flagBit 0 j).getLsbD 2 = true := by
      rw [BitVec.getLsbD_or, idImage_ext_getLsbD, flagBit_getLsbD]; simp
    have h : (idImage (.ext n) rtr ||| flagBit 0 j).extractLsb' 3 29 = n := by
      ext i hi
      have : 3 + i ≠ 1 := by omega
      have : 3 + i ≠ 2 := by omega
      simp [BitVec.getElem_extractLsb', BitVec.getLsbD_or, idImage_ext_getLsbD, flagBit_getLsbD, *]; omega
    simp only [imageId, h2, h]; simp

theorem idImage_rtr (id : Identifier) (rtr j : Bool) : (idImage id rtr ||| flagBit 0 j).getLsbD 1 = rtr := by
  cases id <;> simp only [BitVec.getLsbD_or, idImage_base_getLsbD, idImage_ext_getLsbD, flagBit_getLsbD] <;> simp

theorem idImage_bit0 (id : Identifier) (rtr : Bool) : (idImage id rtr).getLsbD 0 = false := by
  cases id <;> simp only [idImage_base_getLsbD, idImage_ext_getLsbD] <;> simp

@[simp] theorem laneBytes_length (lo hi : Word) : (laneBytes lo hi).length = 8 := rfl

/-- Byte `k` of the payload words (R24). -/
theorem laneBytes_getD (lo hi : Word) (k : Nat) (h : k < 8) :
    (laneBytes lo hi).getD k 0 = if k < 4 then lo.extractLsb' (8 * k) 8 else hi.extractLsb' (8 * (k - 4)) 8 := by
  match k, h with
  | 0, _ | 1, _ | 2, _ | 3, _ | 4, _ | 5, _ | 6, _ | 7, _ => rfl

theorem extract_lanes (a b c d : Byte) (k : Nat) (h : k < 4) :
    (d ++ c ++ b ++ a : Word).extractLsb' (8 * k) 8 = [a, b, c, d].getD k 0 := by
  match k, h with
  | 0, _ | 1, _ | 2, _ | 3, _ =>
    ext i hi
    simp only [BitVec.getElem_extractLsb', BitVec.getLsbD_append]
    simp
    repeat' split
    all_goals first | omega | (rw [BitVec.getLsbD_eq_getElem (by omega)]; try (congr 1; omega))

/-- Byte `k` of `PayloadLow` (R101). -/
theorem payloadLow_lane (len : Nat) (bytes : List Byte) (k : Nat) (h : k < 4) :
    (payloadLow len bytes).extractLsb' (8 * k) 8 = laneByte len bytes k := by
  rw [payloadLow, extract_lanes _ _ _ _ k h]
  match k, h with
  | 0, _ | 1, _ | 2, _ | 3, _ => rfl

/-- Byte `k + 4` of `PayloadHigh` (R101). -/
theorem payloadHigh_lane (len : Nat) (bytes : List Byte) (k : Nat) (h : k < 4) :
    (payloadHigh len bytes).extractLsb' (8 * k) 8 = laneByte len bytes (k + 4) := by
  rw [payloadHigh, extract_lanes _ _ _ _ k h]
  match k, h with
  | 0, _ | 1, _ | 2, _ | 3, _ => rfl

/-! ## The codec and the arbiter, case by case -/

theorem encodeFrame_eq_some {fr : Frame} {img : Image} (h : encodeFrame fr = some img) :
    (∃ id len bytes, fr = .data id len bytes ∧ len ≤ 8 ∧
      img = ⟨idImage id false, BitVec.ofNat 4 len, true, payloadLow len bytes, payloadHigh len bytes⟩) ∨
    (∃ id, fr = .remote id ∧ img = ⟨idImage id true, 0, false, 0, 0⟩) := by
  cases fr with
  | data id len bytes =>
    simp only [encodeFrame] at h
    split at h
    · cases h
    · cases h; exact .inl ⟨id, len, bytes, rfl, by omega, rfl⟩
  | remote id => cases h; exact .inr ⟨id, rfl, rfl⟩

theorem decodeFrame_eq_some {ri rdt rdl rdh : Word} {fr : Frame} (h : decodeFrame ri rdt rdl rdh = some fr) :
    (ri.getLsbD 1 = true ∧ fr = .remote (imageId ri)) ∨
    (ri.getLsbD 1 = false ∧ (rdt.extractLsb' 0 4).toNat ≤ 8 ∧
      fr = .data (imageId ri) (rdt.extractLsb' 0 4).toNat ((laneBytes rdl rdh).take (rdt.extractLsb' 0 4).toNat)) := by
  unfold decodeFrame at h
  split at h
  · cases h; exact .inl ⟨‹_›, rfl⟩
  · dsimp only at h
    split at h
    · cases h
    · cases h; exact .inr ⟨by simp_all, by omega, rfl⟩

/-- The arbiter picks the first empty mailbox (R142). -/
theorem firstEmpty_eq_some {k : Ctrl} {i : Mb} :
    k.firstEmpty = some i ↔ (k.mb i).tme = true ∧ ∀ j, mbNumber j < mbNumber i → (k.mb j).tme = false := by
  have all (P : Mb → Prop) : (∀ j, P j) ↔ P .m0 ∧ P .m1 ∧ P .m2 :=
    ⟨fun h => ⟨h _, h _, h _⟩, fun h j => by cases j <;> simp [h]⟩
  rw [all]
  unfold Ctrl.firstEmpty
  cases h0 : k.mb0.tme <;> cases h1 : k.mb1.tme <;> cases h2 : k.mb2.tme <;> cases i <;>
    simp [Ctrl.mb, h0, h1, h2, mbNumber]

/-- It finds none exactly when none is empty (R143). -/
theorem firstEmpty_eq_none {k : Ctrl} : k.firstEmpty = none ↔ ∀ i, (k.mb i).tme = false := by
  unfold Ctrl.firstEmpty
  constructor
  · intro h i
    repeat' split at h
    all_goals cases i <;> simp_all [Ctrl.mb]
  · intro h
    have h0 := h .m0
    have h1 := h .m1
    have h2 := h .m2
    simp_all [Ctrl.mb]

/-! ## How a command begins -/

/-- A command of an idle, served instance starts at its first step (R57, R90). -/
theorem runCommand_idle {s : State} {c : Inst} (ph : Phase) (h : s.idleAt c = true) :
    runCommand ph s = runTurns c s.env (s.upd c fun k => k.issue ph) := by
  simp only [State.idleAt, Bool.and_eq_true, decide_eq_true_eq] at h
  obtain ⟨rfl, hb⟩ := h
  simp at hb
  simp [runCommand, hb]

theorem issue_inited {k : Ctrl} (ph : Phase) (h : k.seq.inited = true) : k.issue ph = k.start ph := by
  simp [Ctrl.issue, h]

theorem issue_init (k : Ctrl) (op : InitOp) (a : InitStep) : k.issue (.init op a) = k.start (.init op a) := rfl

/-- A run of a command that has ended changes nothing. -/
theorem runTurns_idle {c : Inst} {s : State} (h : s.busy c = false) : runTurns c s.env s = .next s := by
  cases he : s.env with
  | nil =>
    have : ({ s with env := [] } : State) = s := by cases s; simp_all
    rw [runTurns, this]
    unfold State.fuel
    simp [runAlone, h]
  | cons t ts => simp [runTurns, h, ← he]

end Sys2Proof.Machine
end

