-- ==== Sys2Proof/Laws/PerInstr.lean ====
section
/-! SUPPORT. Statements about every instruction as syntax, one lemma per constructor. -/

namespace Sys2Proof.Laws.Header

open Sys2Proof

/-- The bits of `C0` that a row of spec/opcode_table.json fixes: all of them, but for `SEL` in `RX` (R91, R92). -/
def mask : Instr → Word
  | .init _ => 0xFFFFFFFF
  | .cfgfilt _ => 0xFFFFFFFF
  | .tx _ => 0xFFFFFFFF
  | .rx _ => 0xFFFFFFEF
  | .encode _ => 0
  | .decode _ _ _ _ => 0

/-- The fixed bits of the row's header word; the codec functions have no block (R92, R112). -/
def expected : Instr → Option Word
  | .init _ => some 1
  | .cfgfilt _ => some 2
  | .tx _ => some 3
  | .rx _ => some 4
  | .encode _ => none
  | .decode _ _ _ _ => none

/-- The header of an instruction's block is its row's. -/
def Statement (i : Instr) : Prop := (encodeBlock i).map (fun b => b.c0 &&& mask i) = expected i

theorem init (op : InitOp) : Statement (.init op) := by
  simp [Statement, encodeBlock, encodeInit, headerWord, flagBit, mask, expected]
theorem cfgfilt (op : FilterOp) : Statement (.cfgfilt op) := by
  simp [Statement, encodeBlock, encodeFilter, headerWord, flagBit, mask, expected]
theorem tx (fr : Frame) : Statement (.tx fr) := by
  simp [Statement, encodeBlock, encodeTx, headerWord, flagBit, mask, expected]
theorem rx (f : Fifo) : Statement (.rx f) := by cases f <;> rfl
theorem encode (fr : Frame) : Statement (.encode fr) := rfl
theorem decode (ri rdt rdl rdh : Word) : Statement (.decode ri rdt rdl rdh) := rfl

end Sys2Proof.Laws.Header
end

