-- ==== Sys2Proof/Tests/Slice0.lean ====
section
/-! SUPPORT. The model's own tests, with expected results from 95_test_vectors.md or worked out by hand from the rules they
name, and for every statement that has hypotheses a concrete state and operands that meet them. -/

namespace Sys2Proof.Tests

open Sys2Proof Sys2Proof.Machine

/-! ## Helpers -/

/-- An initialised controller in normal mode. -/
def awake (k : Ctrl) : Ctrl :=
  { k with
    mcr := { k.mcr with sleep := false }
    msr := { inak := false, slak := false }
    seq := { k.seq with inited := true } }

/-- Both controllers initialised and in normal mode, and the filters live with no active bank. -/
def ready : State :=
  { State.reset with
    primary := awake .powerOn
    secondary := awake .powerOn
    flt := { Filters.powerOn with finit := false } }

/-- `ready` with the secondary served. -/
def readySecondary : State := { ready with active := .secondary }

/-- The outcome is a next state with the given property. -/
def ends (o : Out) (p : State → Bool) : Bool :=
  match o with
  | .next t => p t
  | .fault _ => false
  | .refused _ => false

/-- The outcome is the given fault. -/
def faults (o : Out) (r : Fault) : Bool :=
  match o with
  | .next _ => false
  | .fault q => decide (q = r)
  | .refused _ => false

/-- The next state of an outcome that has one. -/
def nextOf (o : Out) : State :=
  match o with
  | .next t => t
  | .fault _ => State.reset
  | .refused _ => State.reset

theorem eq_next_of_ends {o : Out} {p : State → Bool} (h : ends o p = true) : o = .next (nextOf o) ∧ p (nextOf o) = true := by
  cases o <;> simp_all [ends, nextOf]

/-- `n` steps of the SEQ of instance `c`. -/
def own (c : Inst) (n : Nat) : List Turn := List.replicate n (.seq c)

/-- The schedule that lets an `INIT` of instance `c` return (R224, R225). -/
def acks (c : Inst) (n m : Nat) : List Turn :=
  List.replicate n (.seq c) ++ .bus c .inakSet :: (List.replicate m (.seq c) ++ [.bus c .inakClr])

/-- Set the phase of the primary. -/
def atPhase (s : State) (ph : Phase) : State := s.upd .primary fun k => k.goto ph

/-- Fill FIFO 0 of the primary. -/
def withQueue (s : State) (q : List Entry) (full fovr : Bool) : State :=
  s.upd .primary fun k => { k with rf0 := { queue := q, full := full, fovr := fovr } }

/-- A mailbox with a pending request. -/
def pending : Mailbox := Mailbox.reset.request

/-- All three mailboxes of the primary pending. -/
def allPending : State := ready.upd .primary fun k => { k with mb0 := pending, mb1 := pending, mb2 := pending }

/-- A bank 0 that accepts every frame into FIFO 0 (R231: a mask of 0). -/
def openBank : State := { ready with flt := { ready.flt with fa1r := 1, fs1r := 1 } }

/-- Operands of `INIT` with the least timing numbers. -/
def leastTiming : InitOp := ⟨false, false, false, false, false, false, false, 1, 1, 1, 1⟩

/-- Operands of `INIT` with the greatest timing numbers and every flag set. -/
def greatestTiming : InitOp := ⟨true, true, true, true, true, true, true, 1024, 4, 16, 8⟩

/-- A supported configuration of bank `b`. -/
def someBank (b : BitVec 8) : FilterOp := ⟨b, .f1, .list, .s16, true, 0x2460, 0x2480, 0x24A0, 0x24C0⟩

/-- An entry: a Data Frame with extended identifier and three bytes. -/
def goodEntry : Entry := ⟨0xD5E6F784, 3, 0x00CCBBAA, 0⟩

/-- An entry: a Data Frame with length code 9. -/
def badEntry : Entry := ⟨0x24600000, 9, 0, 0⟩

/-- A base-identifier Data Frame on the bus. -/
def busFrame : BusFrame := ⟨.base 0x123, false, 2, 0xCDAB, 0⟩

/-- Unspecified bits, all 1. -/
def ones : Junk := ⟨true, 0xFFFFFFF, 0xFFFFFFFF, 0xFFFFFFFF⟩

/-- The frame of vector T1. -/
def frameT1 : Frame := .data (.base 0x123) 2 [0xAB, 0xCD]

/-- Its image (R121, R122). -/
def imageT1 : Image := ⟨0x24600000, 2, true, 0x0000CDAB, 0⟩

/-! ## Well-formedness: one ill-formed term for each check -/

theorem test_wf_refuses_length_256 :
    (Instr.tx (.data (.base 0) 256 [0, 0, 0, 0, 0, 0, 0, 0])).wellFormed = false := by decide

theorem test_wf_refuses_missing_bytes : (Instr.tx (.data (.base 0) 2 [0])).wellFormed = false := by decide

theorem test_wf_refuses_a_ninth_byte :
    (Instr.tx (.data (.base 0) 9 [0, 0, 0, 0, 0, 0, 0, 0, 0])).wellFormed = false := by decide

theorem test_wf_refuses_encode : (Instr.encode (.remote (.base 0))).wellFormed = false := by decide

theorem test_wf_refuses_decode : (Instr.decode 0 0 0 0).wellFormed = false := by decide

theorem test_wf_accepts_length_255 : (Instr.tx (.data (.base 0) 255 [0, 0, 0, 0, 0, 0, 0, 0])).wellFormed = true := by decide

/-! ## Decoding: blocks written out from R91 to R95 -/

theorem test_decode_init :
    decodeBlock ⟨0x00000001, 0x0000007C, 0x040B2003, 0, 0⟩ =
      .ok (.init ⟨false, false, true, true, true, true, true, 3, 2, 11, 4⟩) := by decide

theorem test_decode_cfgfilt :
    decodeBlock ⟨0x00000002, 0x00000C00, 0x12345678, 0x0000FFFF, 0⟩ =
      .ok (.cfgfilt ⟨0, .f0, .mask, .s32, true, 0x1234, 0x5678, 0x0000, 0xFFFF⟩) := by decide

theorem test_decode_tx_data :
    decodeBlock ⟨0x00000003, 0x00000123, 0x00000002, 0xFFFFCDAB, 0xFFFFFFFF⟩ = .ok (.tx frameT1) := by decide

theorem test_decode_tx_remote_extended :
    decodeBlock ⟨0x00000003, 0xD8DAF110, 0x000000FF, 1, 2⟩ = .ok (.tx (.remote (.ext 0x18DAF110))) := by decide

theorem test_decode_tx_length_9 :
    decodeBlock ⟨0x00000003, 0x00000001, 0x00000009, 0x04030201, 0x08070605⟩ =
      .ok (.tx (.data (.base 1) 9 [1, 2, 3, 4, 5, 6, 7, 8])) := by decide

theorem test_decode_rx : decodeBlock ⟨0x00000004, 5, 6, 7, 8⟩ = .ok (.rx .f0) := by decide

theorem test_decode_rx_sel : decodeBlock ⟨0x00000014, 0, 0, 0, 0⟩ = .ok (.rx .f1) := by decide

theorem test_decode_rejects_by_name :
    decodeBlock ⟨0x00000000, 0, 0, 0, 0⟩ = .bad .reservedOpcode ∧
    decodeBlock ⟨0x00000005, 0, 0, 0, 0⟩ = .bad .reservedOpcode ∧
    decodeBlock ⟨0x0000000F, 0, 0, 0, 0⟩ = .bad .reservedOpcode ∧
    decodeBlock ⟨0x80000004, 0, 0, 0, 0⟩ = .bad .headerMbz ∧
    decodeBlock ⟨0x00000024, 0, 0, 0, 0⟩ = .bad .headerMbz ∧
    decodeBlock ⟨0x00000013, 0, 0, 0, 0⟩ = .bad .selOutsideRx ∧
    decodeBlock ⟨0x00000001, 0x80, 0x01011001, 0, 0⟩ = .bad .operandMbz ∧
    decodeBlock ⟨0x00000001, 0, 0x01011801, 0, 0⟩ = .bad .operandMbz ∧
    decodeBlock ⟨0x00000002, 0x1000, 0, 0, 0⟩ = .bad .operandMbz ∧
    decodeBlock ⟨0x00000003, 0x20000000, 0, 0, 0⟩ = .bad .operandMbz ∧
    decodeBlock ⟨0x00000003, 0x00000800, 0, 0, 0⟩ = .bad .baseIdTooWide := by decide

theorem test_encode_block :
    encodeBlock (.cfgfilt (someBank 27)) = some ⟨0x00000002, 0x00000B1B, 0x24602480, 0x24A024C0, 0⟩ := by decide

/-! ## The codec: vectors of 95_test_vectors.md -/

theorem test_encode_extended :
    encodeFrame (.data (.ext 0x1ABCDEF0) 3 [0xAA, 0xBB, 0xCC]) = some ⟨0xD5E6F784, 3, true, 0x00CCBBAA, 0⟩ := by decide

theorem test_encode_exec :
    ends (exec (.encode (.data (.base 1) 9 [1, 2, 3, 4, 5, 6, 7, 8])) ready)
      (fun t => decide (t = { ready with codec := some (.encoded none) })) = true := by decide

theorem test_decode_ignores_unused_bits :
    decodeFrame 0x246FFFF9 0xFFFF0002 0xDDCCBBAA 0x11223344 = some (.data (.base 0x123) 2 [0xAA, 0xBB]) := by decide

theorem test_decode_exec :
    ends (exec (.decode 0xFFFFFFFD 0x108 0x04030201 0x08070605) ready)
      (fun t => decide (t.codec =
        some (.decoded (some (.data (.ext 0x1FFFFFFF) 8 [1, 2, 3, 4, 5, 6, 7, 8]))))) = true := by decide

/-! ## Commands: one step of the machine from a block at the port -/

/-- Vector I1 from reset: the acknowledgements come while `INIT` waits. -/
theorem test_init_ok :
    ends (step ({ State.reset with env := acks .primary 5 4 }.withFetchWord 160 (1 + 0x1 * 2 ^ 32 + 0x020D1006 * 2 ^ 64)))
      (fun t => decide (t.primary.resp.s0 = 0 ∧ t.primary.btr = 0x401C0005 ∧ t.primary.mcr.word 0 = 0 ∧
        t.primary.seq.inited = true ∧ t.flt.finit = true)) = true := by decide

/-- R202: a prescaler of 0. -/
theorem test_init_rejects_prescaler_0 :
    ends (step (State.reset.withFetchWord 160 (1 + 0x020D1000 * 2 ^ 64)))
      (fun t => decide (t.primary.resp.s0 = 2 ∧ t.primary.seq.trace = [] ∧ t.primary.mcr = .reset)) = true := by decide

/-- Vector F1. -/
theorem test_cfgfilt_mask32 :
    ends (step (ready.withFetchWord 160 (2 + 0xC00 * 2 ^ 32 + 0x12345678 * 2 ^ 64 + 0xFFFF * 2 ^ 96)))
      (fun t => decide (t.primary.resp.s0 = 0 ∧ t.flt.fr1[0] = 0x12345678 ∧ t.flt.fr2[0] = 0 ∧ t.flt.fs1r = 1 ∧
        t.flt.fa1r = 1 ∧ t.flt.finit = false ∧ t.primary.seq.trace.length = 9)) = true := by decide

/-- Vector F5: the last bank, 16-bit list. -/
theorem test_cfgfilt_list16 :
    ends (exec (.cfgfilt (someBank 27)) ready)
      (fun t => decide (t.flt.fr1[27] = 0x24C02480 ∧ t.flt.fr2[27] = 0x24A02460 ∧ t.flt.fs1r = 0 ∧
        t.flt.fm1r = 0x8000000 ∧ t.flt.ffa1r = 0x8000000 ∧ t.flt.fa1r = 0x8000000)) = true := by decide

/-- Vector T1: BUS sends before the first poll. -/
theorem test_tx_ok :
    ends (exec (.tx frameT1) { ready with env := own .primary 8 ++ [.bus .primary (.txOk .m0)] })
      (fun t => decide (t.primary.resp = ⟨0, 0, 0, 0, 0⟩ ∧ t.primary.mb0.ti.word = 0x24600000 ∧ t.primary.mb0.dlc = 2 ∧
        t.primary.mb0.tdl = 0xCDAB ∧
        tsrWord t.primary.mb0 t.primary.mb1 t.primary.mb2 0xFFFFFFFF &&& tsrMask = 0x1C000003)) = true := by decide

/-- Vector T5: nothing sends, and the abort is requested. -/
theorem test_tx_timeout :
    ends (exec (.tx (.data (.base 0x100) 1 [1])) ready)
      (fun t => decide (t.primary.resp = ⟨4, 0, 0, 0, 0⟩ ∧ t.primary.mb0.ti.word = 0x20000001 ∧
        tsrWord t.primary.mb0 t.primary.mb1 t.primary.mb2 0 = 0x18000080)) = true := by decide

/-- Vector X3: a full FIFO with an overrun; both flags go with the release. -/
theorem test_rx_ok :
    ends (exec (.rx .f0) (withQueue ready [goodEntry, badEntry, badEntry] true true))
      (fun t => decide (t.primary.resp = ⟨0, 0x9ABCDEF0, 3, 0x00CCBBAA, 0⟩ ∧ t.primary.rf0.word 0 = 2)) = true := by decide

/-- Vector X5: the bad head entry stays. -/
theorem test_rx_invalid :
    ends (exec (.rx .f0) (withQueue ready [badEntry, goodEntry] true true))
      (fun t => decide (t.primary.resp = ⟨3, 0, 0, 0, 0⟩ ∧ t.primary.rf0.word 0 = 0x1A)) = true := by decide

/-- R276: two `CFGFILT` commands overlap, and the one that goes on after the other's end writes outside the mode. -/
theorem test_cfgfilt_overlap_faults :
    faults (exec (.cfgfilt (someBank 3))
      { ready with env := own .primary 3 ++ [.host .secondary ⟨2, 0xD0E, 0, 0, 0⟩] ++ own .secondary 12 })
      .filterWriteOutsideInit = true := by decide

/-- The match table of 95_test_vectors.md: 16-bit mask, base 0x123 and 0x124 but not the remote frame. -/
theorem test_match_mask16 :
    [(Identifier.base 0x123, false), (.base 0x123, true), (.base 0x124, false), (.base 0x125, false)].map
      (fun p => matchStandard false false 0xFFF82480 0xFFF82460 ⟨p.1, p.2, 0, 0, 0⟩) = [true, false, true, false] := by decide

/-! ## Witnesses: states and operands that meet the hypotheses of the statements -/

theorem witness_DecodeOfEncodedBlockIsTheInstruction :
    (Instr.init greatestTiming).wellFormed = true ∧ (Instr.cfgfilt (someBank 255)).wellFormed = true ∧
    (Instr.tx (.data (.ext 0x1FFFFFFF) 255 [1, 2, 3, 4, 5, 6, 7, 8])).wellFormed = true ∧
    (Instr.tx (.data (.base 0) 0 [])).wellFormed = true ∧ (Instr.tx (.remote (.base 0x7FF))).wellFormed = true ∧
    (Instr.rx .f1).wellFormed = true := by decide

theorem witness_DecodedBlockEncodesToTheSameWords :
    decodeBlock ⟨3, 0x9ABCDEF0, 3, 0xFFCCBBAA, 0x11223344⟩ = .ok (.tx (.data (.ext 0x1ABCDEF0) 3 [0xAA, 0xBB, 0xCC])) ∧
    decodeBlock ⟨1, 0x7F, 0x08104400, 9, 9⟩ = .ok (.init greatestTiming) ∧
    decodeBlock ⟨2, 0xB1B, 0x24602480, 0x24A024C0, 9⟩ = .ok (.cfgfilt (someBank 27)) := by decide

/-- A served, idle instance with a block at its port. -/
def presented (b : Block) : State := ready.upd .primary fun k => { k with cmd := some b }

theorem witness_StepRunsTheDecodedCommand :
    let s := presented ⟨0x14, 0, 0, 0, 0⟩
    s.cfg.valid = true ∧ s.present s.active = true ∧ s.busy s.active = false ∧
    (s.ctrl s.active).cmd = some ⟨0x14, 0, 0, 0, 0⟩ ∧ decodeBlock ⟨0x14, 0, 0, 0, 0⟩ = .ok (.rx .f1) := by decide

theorem witness_ReservedOpcodeAnswersIllegalCommand :
    (∀ n ∈ [0x10, 0x5, 0xF], let b : Block := ⟨BitVec.ofNat 32 n, 1, 2, 3, 4⟩
      let s := presented b
      s.cfg.valid = true ∧ s.present s.active = true ∧ s.busy s.active = false ∧ (s.ctrl s.active).cmd = some b ∧
      (b.c0.extractLsb' 0 4 = 0 ∨ 5 ≤ (b.c0.extractLsb' 0 4).toNat)) := by decide

theorem witness_IllFormedBlockAnswersIllegalCommand :
    let b : Block := ⟨0x80000004, 0, 0, 0, 0⟩
    let s := presented b
    s.cfg.valid = true ∧ s.present s.active = true ∧ s.busy s.active = false ∧ (s.ctrl s.active).cmd = some b ∧
    decodeBlock b = .bad .headerMbz := by decide

theorem witness_CommandBeforeInitAnswersIllegalCommand :
    State.reset.idleAt .primary = true ∧ (State.reset.ctrl .primary).seq.inited = false ∧
    ((∃ op, Instr.rx .f0 = .cfgfilt op) ∨ (∃ fr, Instr.rx .f0 = .tx fr) ∨ (∃ f, Instr.rx .f0 = .rx f)) :=
  ⟨by decide, by decide, .inr (.inr ⟨.f0, rfl⟩)⟩

theorem witness_EncodeWritesTheIdentifierFields :
    encodeFrame frameT1 = some imageT1 ∧
    encodeFrame (.remote (.ext 0x1FFFFFFF)) = some ⟨0xFFFFFFFE, 0, false, 0, 0⟩ := by decide

theorem witness_EncodeOfDataFrameCompletes : (0 : Nat) ≤ 8 ∧ (8 : Nat) ≤ 8 := by decide

theorem witness_EncodeOfRemoteAndLongFramesCompletes : 8 < (9 : Nat) := by decide

theorem witness_DecodeOfEveryWindowCompletes :
    (0x4 : Word).getLsbD 2 = true ∧ (0x4 : Word).getLsbD 1 = false ∧ (0x2 : Word).getLsbD 1 = true ∧
    ((0xFF8 : Word).extractLsb' 0 4).toNat = 8 ∧ 8 < ((0x9 : Word).extractLsb' 0 4).toNat := by decide

theorem witness_CodecRoundTrip :
    frameT1.wellFormed = true ∧ encodeFrame frameT1 = some imageT1 ∧ (0xFFFFFFF2 : Word).extractLsb' 0 4 = imageT1.dlc ∧
    (imageT1.hasData = true → (0xCDAB : Word) = imageT1.tdl ∧ (0 : Word) = imageT1.tdh) := by decide

theorem witness_DecodeIgnoresTheUnusedBits :
    let ri : Word := 0x246FFFF9
    let ri' : Word := 0x24600000
    let rdt : Word := 0xFFFF0002
    let rdt' : Word := 2
    let rdl : Word := 0xDDCCBBAA
    let rdl' : Word := 0x0000BBAA
    ri.getLsbD 1 = ri'.getLsbD 1 ∧ ri.getLsbD 2 = ri'.getLsbD 2 ∧ ri.extractLsb' 21 11 = ri'.extractLsb' 21 11 ∧
    (ri.getLsbD 2 = true → ri.extractLsb' 3 18 = ri'.extractLsb' 3 18) ∧
    (ri.getLsbD 1 = false →
      rdt.extractLsb' 0 4 = rdt'.extractLsb' 0 4 ∧
      rdl &&& laneMask (rdt.extractLsb' 0 4).toNat = rdl' &&& laneMask (rdt.extractLsb' 0 4).toNat ∧
      (5 : Word) &&& laneMask ((rdt.extractLsb' 0 4).toNat - 4) = 9 &&& laneMask ((rdt.extractLsb' 0 4).toNat - 4)) := by
  decide

theorem witness_RegisterAddressesAreAlignedAndDistinct :
    Config.default.valid = true ∧ (Reg.fr2 27).valid = true ∧ (Reg.mcr .primary).valid = true ∧
    (Reg.fr2 27).home = (Reg.fr2 27).home ∧ (Reg.fr2 27).offset = 0x31C := by decide

theorem witness_RegisterReadsHaveNoSideEffect :
    ∃ t, regRead .primary (.ri .primary .f0) (withQueue ready [goodEntry] false false) (fun _ u => .next u) = .next t :=
  ⟨_, rfl⟩

theorem witness_RfShowsTheFifoFlags :
    (((withQueue ready [goodEntry, goodEntry, goodEntry] true false).ctrl .primary).rf .f0).queue.length ≤ 3 := by decide

/-- A state whose primary reset would hit a running secondary command, under `ALL_INSTANCES`. -/
def allScope : State := { ready with cfg := { ready.cfg with primaryResetScope := .allInstances } }

theorem witness_CollabResetCoversItsScope :
    (let s := allScope.upd .secondary fun k => k.goto (.rx .f0 .x1);
      s.cfg.primaryResetScope = .allInstances ∧ s.present .secondary = true ∧ s.busy .secondary = true) ∧
    (allScope.cfg.primaryResetScope = .allInstances ∧ allScope.present .secondary = true ∧
      allScope.busy .secondary = false) ∧
    ready.cfg.primaryResetScope = .primaryAndFilters ∧
    ({ allScope with cfg := { allScope.cfg with controllers := .one } } : State).present .secondary = false := by decide

theorem witness_InitRejectsTimingOutOfRange :
    State.reset.idleAt .primary = true ∧ State.reset.quiet .primary = true ∧
    ∀ op ∈ [{ leastTiming with prescaler := 0 }, { leastTiming with prescaler := 1025 }, { leastTiming with sjw := 0 },
        { leastTiming with sjw := 5 }, { leastTiming with seg1 := 0 }, { leastTiming with seg1 := 17 },
        { leastTiming with seg2 := 0 }, { leastTiming with seg2 := 9 }],
      ¬(1 ≤ op.prescaler.toNat ∧ op.prescaler.toNat ≤ 1024 ∧ 1 ≤ op.sjw.toNat ∧ op.sjw.toNat ≤ 4 ∧
        1 ≤ op.seg1.toNat ∧ op.seg1.toNat ≤ 16 ∧ 1 ≤ op.seg2.toNat ∧ op.seg2.toNat ≤ 8) := by decide

theorem witness_InitCompletesWhenAcknowledged :
    (∀ c ∈ [Inst.primary, .secondary], ∀ op ∈ [leastTiming, greatestTiming], ∀ m ∈ [4, 6],
      let s : State := { State.reset with env := acks c 4 m, active := c }
      s.idleAt c = true ∧ s.present c = true ∧ s.resetAllowed c = true ∧
      (1 ≤ op.prescaler.toNat ∧ op.prescaler.toNat ≤ 1024) ∧ (1 ≤ op.sjw.toNat ∧ op.sjw.toNat ≤ 4) ∧
      (1 ≤ op.seg1.toNat ∧ op.seg1.toNat ≤ 16) ∧ (1 ≤ op.seg2.toNat ∧ op.seg2.toNat ≤ 8) ∧ 4 ≤ 4 ∧ 4 ≤ m ∧
      s.env = List.replicate 4 (.seq c) ++ .bus c .inakSet :: (List.replicate m (.seq c) ++ [.bus c .inakClr]) ∧
      s.exitAckWait c = decide (c = .primary)) := by
  decide

theorem witness_InitReturnsOkOrWaits :
    let s : State := { State.reset with env := [.seq .primary, .bus .secondary .slakClr, .bus .primary .inakSet] }
    s.idleAt .primary = true ∧ s.quiet .primary = true ∧ s.resetAllowed .primary = true ∧
    timingValid greatestTiming = true ∧ s.exitAckWait .primary = true := by decide

theorem witness_WaitingInitStaysUntilBusMoves :
    let s := atPhase ready (.init leastTiming .i4)
    s.cfg.valid = true ∧ s.present s.active = true ∧ s.env = [] ∧ s.waiting s.active = true := by decide

/-- The hypotheses of the statement about the primary's `INIT`, met from a state `s`. -/
theorem primaryInit_returns {s : State} (h : ends (exec (.init leastTiming) s) (fun t => !t.busy .primary) = true) :
    exec (.init leastTiming) s = .next (nextOf (exec (.init leastTiming) s)) ∧
    (nextOf (exec (.init leastTiming) s)).busy .primary = false :=
  ⟨(eq_next_of_ends h).1, by simpa using (eq_next_of_ends h).2⟩

/-- `allPending` under each reset scope, with the acknowledgements to come. -/
def acknowledged (r : ResetScope) : State :=
  { allPending with env := acks .primary 4 4, cfg := { allPending.cfg with primaryResetScope := r } }

theorem witness_PrimaryInitResetsTheFilterBlock :
    timingValid leastTiming = true ∧
    (∀ r ∈ [ResetScope.primaryAndFilters, .allInstances],
      (acknowledged r).idleAt .primary = true ∧ (acknowledged r).quiet .primary = true ∧
      (acknowledged r).present .secondary = true ∧ (acknowledged r).cfg.primaryResetScope = r ∧
      exec (.init leastTiming) (acknowledged r) = .next (nextOf (exec (.init leastTiming) (acknowledged r))) ∧
      (nextOf (exec (.init leastTiming) (acknowledged r))).busy .primary = false) := by
  have h : ∀ r ∈ [ResetScope.primaryAndFilters, .allInstances],
      (acknowledged r).idleAt .primary = true ∧ (acknowledged r).quiet .primary = true ∧
      (acknowledged r).present .secondary = true ∧ (acknowledged r).cfg.primaryResetScope = r ∧
      ends (exec (.init leastTiming) (acknowledged r)) (fun t => !t.busy .primary) = true := by decide
  refine ⟨by decide, fun r hr => ?_⟩
  obtain ⟨h1, h2, h3, h4, h5⟩ := h r hr
  exact ⟨h1, h2, h3, h4, primaryInit_returns h5⟩

theorem witness_SecondaryInitResetsNothing :
    readySecondary.idleAt .secondary = true ∧ readySecondary.quiet .secondary = true ∧
    exec (.init leastTiming) readySecondary = .next (nextOf (exec (.init leastTiming) readySecondary)) := by
  have h : ends (exec (.init leastTiming) readySecondary) (fun _ => true) = true := by decide
  exact ⟨by decide, by decide, (eq_next_of_ends h).1⟩

theorem witness_CfgfiltRejectsBankOutOfRange :
    ready.canIssue .primary = true ∧ ready.quiet .primary = true ∧ 28 ≤ (someBank 28).bank.toNat ∧
    28 ≤ (someBank 255).bank.toNat := by decide

theorem witness_CfgfiltRejectsUnsupportedCombination :
    let s : State := { ready with cfg := { ready.cfg with unsupportedCombo := [(.s16, .list)] } }
    s.canIssue .primary = true ∧ s.quiet .primary = true ∧ (someBank 27).bank.toNat < 28 ∧
    ((someBank 27).scale, (someBank 27).mode) ∈ s.cfg.unsupportedCombo ∧
    ((atPhase s (.filter (someBank 27) .f1)).ctrl .primary).seq.phase = .filter (someBank 27) .f1 := by decide

theorem witness_CfgfiltProgramsItsBankAlone :
    (∀ b ∈ [0, 27], (someBank (BitVec.ofNat 8 b)).bank.toNat < 28) ∧ readySecondary.canIssue .secondary = true ∧
    readySecondary.quiet .secondary = true ∧
    ((someBank 27).scale, (someBank 27).mode) ∉ readySecondary.cfg.unsupportedCombo := by decide

theorem witness_CfgfiltLeavesTheControllersAlone :
    ready.canIssue .primary = true ∧ ready.env = [] ∧
    exec (.cfgfilt (someBank 0)) ready = .next (nextOf (exec (.cfgfilt (someBank 0)) ready)) := by
  have h : ends (exec (.cfgfilt (someBank 0)) ready) (fun _ => true) = true := by decide
  exact ⟨by decide, by decide, (eq_next_of_ends h).1⟩

theorem witness_FilterWriteOutsideInitModeFaults :
    ∀ a ∈ [FilterStep.f4, .f5, .f6, .f7a, .f7b],
      let s := atPhase ready (.filter (someBank 3) a)
      (s.ctrl .primary).seq.phase = .filter (someBank 3) a ∧ a ∈ [FilterStep.f4, .f5, .f6, .f7a, .f7b] ∧
      s.flt.finit = false := by decide

theorem witness_TxWithoutEmptyMailboxFails :
    allPending.canIssue .primary = true ∧ allPending.quiet .primary = true ∧ allPending.firstMoveOwn .primary = true ∧
    ∀ i, ((allPending.ctrl .primary).mb i).tme = false :=
  ⟨by decide, by decide, by decide, fun i => by cases i <;> decide⟩

theorem witness_TxOfLongFrameFails :
    ready.canIssue .primary = true ∧ ready.quiet .primary = true ∧ (∃ i, ((ready.ctrl .primary).mb i).tme = true) ∧
    8 < (9 : Nat) :=
  ⟨by decide, by decide, ⟨.m2, by decide⟩, by decide⟩

/-- The first mailbox pending, the others empty. -/
def onePending : State := ready.upd .primary fun k => { k with mb0 := pending }

theorem witness_TxCompletesWhenBusSends :
    (let s : State := { onePending with env := List.replicate (8 + 3) (.seq .primary) ++ [.bus .primary (.txOk .m1)] };
      s.canIssue .primary = true ∧ s.present .primary = true ∧ (s.ctrl .primary).mcr.inrq = false ∧
      (s.ctrl .primary).msr.inak = false ∧ (s.ctrl .primary).msr.slak = false ∧
      ((s.ctrl .primary).btr.getLsbD 31 = false ∨ (s.ctrl .primary).btr.getLsbD 30 = true) ∧ ((s.ctrl .primary).mb .m1).tme = true ∧
      encodeFrame frameT1 = some imageT1 ∧ 3 < s.cfg.txTickBudget ∧
      s.env = List.replicate ((if imageT1.hasData then 8 else 6) + 3) (.seq .primary) ++ [.bus .primary (.txOk .m1)]) ∧
    (∀ j, mbNumber j < mbNumber .m1 → ((onePending.ctrl .primary).mb j).tme = false) ∧
    (let s : State := { ready with env := List.replicate 6 (.seq .primary) ++ [.bus .primary (.txOk .m0)] };
      encodeFrame (.remote (.base 1)) = some ⟨0x00200002, 0, false, 0, 0⟩ ∧
      s.env = List.replicate ((if false then 8 else 6) + 0) (.seq .primary) ++ [.bus .primary (.txOk .m0)]) :=
  ⟨by decide, fun j => by cases j <;> decide, by decide⟩

theorem witness_TxTimesOutOnADeadBus :
    onePending.canIssue .primary = true ∧ onePending.env = [] ∧ 1 ≤ onePending.cfg.txTickBudget ∧
    ((onePending.ctrl .primary).mb .m1).tme = true ∧
    (∀ j, mbNumber j < mbNumber .m1 → ((onePending.ctrl .primary).mb j).tme = false) ∧
    encodeFrame frameT1 = some imageT1 :=
  ⟨by decide, by decide, by decide, by decide, fun j => by cases j <;> decide, by decide⟩

theorem witness_TxEndsWithOkOrTimeout :
    ready.inv = true ∧ ready.canIssue .primary = true ∧ ready.quiet .primary = true ∧
    (∃ i, ((ready.ctrl .primary).mb i).tme = true) ∧ encodeFrame frameT1 = some imageT1 ∧
    ready.firstMoveOwn .primary = true :=
  ⟨by decide, by decide, by decide, ⟨.m0, by decide⟩, by decide, by decide⟩

theorem witness_RequestClearsStaleFlags :
    ((atPhase ready (.tx frameT1 .t7)).ctrl .primary).seq.phase = .tx frameT1 .t7 := by decide

theorem witness_AbortRequestOnEmptyMailboxHasNoEffect :
    ∀ m ∈ [pending, Mailbox.reset],
      let s := (atPhase ready (.tx frameT1 .t9)).upd .primary fun k => { k with mb0 := m }
      (s.ctrl .primary).seq.phase = .tx frameT1 .t9 ∧ (s.ctrl .primary).mb (s.ctrl .primary).seq.sel = m ∧
      m.inv = true := by decide

theorem witness_RxOfEmptyFifoFails :
    ready.canIssue .primary = true ∧ ready.quiet .primary = true ∧ ready.firstMoveOwn .primary = true ∧
    ((ready.ctrl .primary).rf .f1).queue = [] := by decide

theorem witness_RxReturnsTheHeadOfItsFifo :
    let s : State := { withQueue openBank [goodEntry] false false with
      env := [.seq .primary, .bus .primary (.deposit .f0 busFrame ones), .seq .primary] }
    s.canIssue .primary = true ∧ s.quiet .primary = true ∧ ((s.ctrl .primary).rf .f0).queue = goodEntry :: [] ∧
    decodeFrame goodEntry.ri goodEntry.rdt goodEntry.rdl goodEntry.rdh =
      some (.data (.ext 0x1ABCDEF0) 3 [0xAA, 0xBB, 0xCC]) := by decide

theorem witness_RxOfBadEntryFails :
    let s := withQueue ready [badEntry, goodEntry] false false
    s.canIssue .primary = true ∧ s.env = [] ∧ ((s.ctrl .primary).rf .f0).queue = badEntry :: [goodEntry] ∧
    badEntry.ri.getLsbD 1 = false ∧ 8 < (badEntry.rdt.extractLsb' 0 4).toNat := by decide

theorem witness_RxRemovesOneEntryAlone :
    let s := withQueue ready [goodEntry, badEntry, badEntry] true true
    s.canIssue .primary = true ∧ s.env = [] ∧ ((s.ctrl .primary).rf .f0).queue = goodEntry :: [badEntry, badEntry] ∧
    decodeFrame goodEntry.ri goodEntry.rdt goodEntry.rdl goodEntry.rdh =
      some (.data (.ext 0x1ABCDEF0) 3 [0xAA, 0xBB, 0xCC]) := by decide

theorem witness_RxResponseIsCanonical :
    decodeFrame 0x246FFFF9 0xFFFF0002 0xDDCCBBAA 0x11223344 = some (.data (.base 0x123) 2 [0xAA, 0xBB]) ∧
    decodeFrame 0xFFFFFFFF 0xFFFFFFFF 1 2 = some (.remote (.ext 0x1FFFFFFF)) ∧
    decodeFrame 0xFFFFFFFC 0x8 0x04030201 0x08070605 =
      some (.data (.ext 0x1FFFFFFF) 8 [1, 2, 3, 4, 5, 6, 7, 8]) := by decide

theorem witness_BusNeverWritesWhatSeqOwns :
    (busStep .primary (.deposit .f0 busFrame ones) openBank).isSome = true ∧
    (busStep .primary (.txOk .m0) allPending).isSome = true := by decide

theorem witness_BusConcludesOnlyPendingRequests :
    (busStep .primary (if true then .txOk .m2 else .txEnd .m2) allPending).isSome = true ∧
    (busStep .primary (if false then .txOk .m2 else .txEnd .m2)
      (allPending.upd .primary fun k => { k with mcr := { k.mcr with nart := true } })).isSome = true := by decide

theorem witness_DepositNeedsALiveMatchingBank :
    (busStep .primary (.deposit .f0 busFrame ones)
      (withQueue openBank [goodEntry, goodEntry] false false)).isSome = true := by decide

theorem witness_OverrunKeepsTheHead :
    ∀ rflm ∈ [true, false],
      let s := (withQueue openBank [goodEntry, goodEntry, goodEntry] true false).upd .primary fun k =>
        { k with mcr := { k.mcr with rflm := rflm } }
      (busStep .primary (.overrun .f0 busFrame ones) s).isSome = true ∧ (s.ctrl .primary).mcr.rflm = rflm := by decide

theorem witness_SentFrameDecodesToItself :
    frameT1.wellFormed = true ∧ encodeFrame frameT1 = some imageT1 ∧
    ((∃ len bytes, frameT1 = .data (.base 0x123) len bytes) ∧ false = false ∧ (0xCDAB : Word) = imageT1.tdl ∧
      (0 : Word) = imageT1.tdh ∨ frameT1 = .remote (.base 0x123) ∧ false = true) :=
  ⟨by decide, by decide, .inl ⟨⟨2, [0xAB, 0xCD], rfl⟩, by decide, by decide, by decide⟩⟩

theorem witness_MaskBankComparesTheMaskedBits :
    openBank.flt.fs1r.getLsbD (0 : Fin 28) = true ∧ openBank.flt.fm1r.getLsbD (0 : Fin 28) = false := by decide

/-- Banks 0 to 3 in the four scales and modes. -/
def fourModes : Filters := { ready.flt with fs1r := 0b0011, fm1r := 0b0101 }

theorem witness_OtherBankModesCompareAsTheirRowSays :
    (fourModes.fs1r.getLsbD (0 : Fin 28) = true ∧ fourModes.fm1r.getLsbD (0 : Fin 28) = true) ∧
    (fourModes.fs1r.getLsbD (3 : Fin 28) = false ∧ fourModes.fm1r.getLsbD (3 : Fin 28) = false) ∧
    (fourModes.fs1r.getLsbD (2 : Fin 28) = false ∧ fourModes.fm1r.getLsbD (2 : Fin 28) = true) := by decide

theorem witness_BusAcknowledgesModeRequests :
    (busStep .primary .inakSet
      (ready.upd .primary fun k => { k with mcr := { k.mcr with inrq := true } })).isSome = true ∧
    (busStep .primary .inakClr
      (ready.upd .primary fun k => { k with msr := { k.msr with inak := true } })).isSome = true ∧
    (busStep .primary .slakClr
      (ready.upd .primary fun k => { k with msr := { k.msr with slak := true } })).isSome = true := by decide

theorem witness_StepKeepsTheInvariant :
    let s : State := { presented ⟨0x3, 0x123, 2, 0xCDAB, 0⟩ with env := [.host .secondary ⟨0x4, 0, 0, 0, 0⟩] }
    s.inv = true ∧ step s = .next (nextOf (step s)) ∧ (nextOf (step s)).primary.resp.s0 = 4 := by
  have h : ends (step { presented ⟨0x3, 0x123, 2, 0xCDAB, 0⟩ with env := [.host .secondary ⟨0x4, 0, 0, 0, 0⟩] })
      (fun t => decide (t.primary.resp.s0 = 4)) = true := by decide
  exact ⟨by decide, (eq_next_of_ends h).1, by simpa using (eq_next_of_ends h).2⟩

theorem witness_StepKeepsTheParameters : step ready = .next ready := rfl

theorem witness_OnlyInitCanHang :
    State.reset.busy State.reset.active = false ∧
    exec (.init leastTiming) State.reset = .next (nextOf (exec (.init leastTiming) State.reset)) ∧
    (nextOf (exec (.init leastTiming) State.reset)).busy State.reset.active = true := by
  have h : ends (exec (.init leastTiming) State.reset) (fun t => t.busy .primary) = true := by decide
  exact ⟨by decide, (eq_next_of_ends h).1, (eq_next_of_ends h).2⟩

theorem witness_CommandsReturnOnlyTheirStatuses :
    ready.idleAt .primary = true ∧ exec (.rx .f0) ready = .next (nextOf (exec (.rx .f0) ready)) ∧
    (nextOf (exec (.rx .f0) ready)).busy .primary = false := by
  have h : ends (exec (.rx .f0) ready) (fun t => !t.busy .primary) = true := by decide
  exact ⟨by decide, (eq_next_of_ends h).1, by simpa using (eq_next_of_ends h).2⟩

/-- At a step of an `INIT`, in initialisation mode. -/
def atInit (a : InitStep) : State :=
  (atPhase ready (.init greatestTiming a)).upd .primary fun k =>
    { k with
      mcr := { k.mcr with inrq := true }
      msr := { k.msr with inak := true }
      seq := { k.seq with inited := false } }

theorem witness_ControlRegistersChangeOnlyInInitMode :
    ((atInit .i5).inv = true ∧ turn (.seq .primary) (atInit .i5) = .next (nextOf (turn (.seq .primary) (atInit .i5))) ∧
      (nextOf (turn (.seq .primary) (atInit .i5))).primary.mcr.txfp ≠ (atInit .i5).primary.mcr.txfp) ∧
    ((atInit .i6).inv = true ∧ turn (.seq .primary) (atInit .i6) = .next (nextOf (turn (.seq .primary) (atInit .i6))) ∧
      (nextOf (turn (.seq .primary) (atInit .i6))).primary.btr ≠ (atInit .i6).primary.btr) := by
  have h5 : ends (turn (.seq .primary) (atInit .i5))
      (fun t => decide (t.primary.mcr.txfp ≠ (atInit .i5).primary.mcr.txfp)) = true := by decide
  have h6 : ends (turn (.seq .primary) (atInit .i6))
      (fun t => decide (t.primary.btr ≠ (atInit .i6).primary.btr)) = true := by decide
  exact ⟨⟨by decide, (eq_next_of_ends h5).1, by simpa using (eq_next_of_ends h5).2⟩,
    ⟨by decide, (eq_next_of_ends h6).1, by simpa using (eq_next_of_ends h6).2⟩⟩

/-- At a step of a `CFGFILT` of bank 3, with or without filter-bank initialisation mode. -/
def atFilter (finit : Bool) (a : FilterStep) : State :=
  (atPhase ready (.filter (someBank 3) a)).updFlt fun g => { g with finit := finit, fs1r := 8, fa1r := 16 }

theorem witness_BankRegistersChangeOnlyInFilterInitMode :
    (∀ a ∈ [FilterStep.f4, .f5, .f6, .f7a, .f7b], ends (turn (.seq .primary) (atFilter true a)) (fun t =>
      decide (t.flt.fs1r ≠ (atFilter true a).flt.fs1r ∨ t.flt.fm1r ≠ (atFilter true a).flt.fm1r ∨
        t.flt.ffa1r ≠ (atFilter true a).flt.ffa1r ∨ t.flt.fr1 ≠ (atFilter true a).flt.fr1 ∨
        t.flt.fr2 ≠ (atFilter true a).flt.fr2)) = true) ∧
    (∀ finit ∈ [true, false], ends (turn (.seq .primary) (atFilter finit .f8)) (fun t =>
      decide (t.flt.fa1r ≠ (atFilter finit .f8).flt.fa1r)) = true) ∧
    ends (turn (.seq .primary) ((atFilter false .f3).updFlt fun g => { g with fa1r := 8 })) (fun t =>
      decide (t.flt.fa1r = 0)) = true := by decide

/-- A schedule in which the SEQ of the primary and every step of its BUS that `BUS_HEALTHY` is about come round in turn. -/
def roundRobin (n : Nat) : Turn :=
  match n % 10 with
  | 0 => .bus .primary .inakSet
  | 1 => .bus .primary .inakClr
  | 2 => .bus .primary .slakClr
  | 3 => .bus .primary (.txOk .m0)
  | 4 => .bus .primary (.txOk .m1)
  | 5 => .bus .primary (.txOk .m2)
  | 6 => .bus .primary (.txEnd .m0)
  | 7 => .bus .primary (.txEnd .m1)
  | 8 => .bus .primary (.txEnd .m2)
  | _ => .seq .primary

theorem roundRobin_own (n : Nat) : (roundRobin n).ownOrBus .primary = true ∧ (roundRobin n).inst = .primary := by
  unfold roundRobin
  split <;> exact ⟨rfl, rfl⟩

theorem roundRobin_healthy (s : State) : BusHealthy roundRobin s .primary := by
  intro e n
  have at_ (k : Nat) (h : k < 10) : n ≤ 10 * n + k ∧ (10 * n + k) % 10 = k := by omega
  cases e with
  | inakSet => exact ⟨10 * n + 0, (at_ 0 (by decide)).1, .inl (by simp [roundRobin])⟩
  | inakClr => exact ⟨10 * n + 1, (at_ 1 (by decide)).1, .inl (by simp [roundRobin])⟩
  | slakClr => exact ⟨10 * n + 2, (at_ 2 (by decide)).1, .inl (by simp [roundRobin])⟩
  | txOk i =>
    cases i
    · exact ⟨10 * n + 3, (at_ 3 (by decide)).1, .inl (by simp [roundRobin])⟩
    · exact ⟨10 * n + 4, (at_ 4 (by decide)).1, .inl (by simp [roundRobin])⟩
    · exact ⟨10 * n + 5, (at_ 5 (by decide)).1, .inl (by simp [roundRobin])⟩
  | txEnd i =>
    cases i
    · exact ⟨10 * n + 6, (at_ 6 (by decide)).1, .inl (by simp [roundRobin])⟩
    · exact ⟨10 * n + 7, (at_ 7 (by decide)).1, .inl (by simp [roundRobin])⟩
    · exact ⟨10 * n + 8, (at_ 8 (by decide)).1, .inl (by simp [roundRobin])⟩
  | deposit f fr j => exact ⟨n, le_rfl, .inr fun _ _ => rfl⟩
  | overrun f fr j => exact ⟨n, le_rfl, .inr fun _ _ => rfl⟩

theorem witness_HealthyBusLetsInitReturn :
    let s := (atPhase ready (.init leastTiming .i1))
    s.inv = true ∧ s.present .primary = true ∧ s.resetAllowed .primary = true ∧
    (s.ctrl .primary).seq.phase = .init leastTiming .i1 ∧
    (∀ n, (roundRobin n).ownOrBus .primary = true ∧ s.present (roundRobin n).inst = true) ∧
    SeqRuns roundRobin .primary ∧ BusHealthy roundRobin s .primary :=
  ⟨by decide, by decide, by decide, by decide,
    fun n => ⟨(roundRobin_own n).1, by rw [(roundRobin_own n).2]; rfl⟩,
    fun n => ⟨10 * n + 9, by omega, by simp [roundRobin]⟩, roundRobin_healthy _⟩

end Sys2Proof.Tests
end

section
/-! SUPPORT. What one step of the machine can do, said once, and the proof that none changes a parameter (R9). -/

namespace Sys2Proof.Machine

/-! ## What an instruction and a step can do -/

/-- A command that reaches a next state was issued at an idle sequencer and is a run under the turns of the schedule. -/
theorem runCommand_eq_next {ph : Phase} {s t : State} :
    runCommand ph s = .next t ↔
      s.busy s.active = false ∧ runTurns s.active s.env (s.upd s.active fun k => k.issue ph) = .next t := by
  unfold runCommand
  split <;> simp_all

/-- Everything an instruction can do: run a command from its first step, or write the codec's field (R2, R120, R125). -/
theorem exec_cases {i : Instr} {s t : State} (h : exec i s = .next t) :
    runCommand (startPhase i) s = .next t ∨ ∃ r, t = { s with codec := r } := by
  cases i with
  | init op => exact .inl h
  | cfgfilt op => exact .inl h
  | tx fr => exact .inl h
  | rx f => exact .inl h
  | encode fr => cases h; exact .inr ⟨_, rfl⟩
  | decode ri rdt rdl rdh => cases h; exact .inr ⟨_, rfl⟩

/-- Everything a step can do: carry on the running command, do nothing, take the next turn of the schedule, reject the
block at the port, or run the instruction it decodes to (R72, R90, R105, R106). -/
theorem step_cases {s t : State} (h : step s = .next t) :
    (s.busy s.active = true ∧ runTurns s.active s.env s = .next t) ∨
    (s.busy s.active = false ∧
      (((s.ctrl s.active).cmd = none ∧
          ((s.env = [] ∧ t = s) ∨ ∃ x ts, s.env = x :: ts ∧ turn x { s with env := ts } = .next t)) ∨
        ∃ b, (s.ctrl s.active).cmd = some b ∧
          ((∃ e, decodeBlock b = .bad e ∧ t = s.upd s.active fun k => k.illegal) ∨
            ∃ i, decodeBlock b = .ok i ∧ exec i s = .next t))) := by
  unfold step at h
  split at h
  · cases h
  split at h
  · cases h
  split at h
  next hb => exact .inl ⟨hb, h⟩
  next hb =>
    refine .inr ⟨by simpa using hb, ?_⟩
    split at h
    next hc =>
      refine .inl ⟨hc, ?_⟩
      split at h
      next he => cases h; exact .inl ⟨he, rfl⟩
      next x ts he => exact .inr ⟨x, ts, he, h⟩
    next b hc =>
      refine .inr ⟨b, hc, ?_⟩
      split at h
      next e hd => cases h; exact .inl ⟨e, hd, rfl⟩
      next i hd => exact .inr ⟨i, hd, h⟩

/-! ## The parameters (R9) -/

/-- The parameters of R9 and the instance that a step serves (log 1) are the same. Unlike `State.sameFrame` this allows the
schedule to be used up and the codec's field to be written. -/
def State.sameParameters (s t : State) : Prop := t.cfg = s.cfg ∧ t.active = s.active

theorem State.sameParameters.refl (s : State) : s.sameParameters s := ⟨rfl, rfl⟩

theorem State.sameParameters.trans {s t u : State} (h : s.sameParameters t) (g : t.sameParameters u) :
    s.sameParameters u :=
  ⟨g.1.trans h.1, g.2.trans h.2⟩

theorem State.sameFrame.sameParameters {s t : State} (h : s.sameFrame t) : s.sameParameters t := ⟨h.1, h.2.1⟩

theorem upd_sameParameters (s : State) (c : Inst) (g : Ctrl → Ctrl) : s.sameParameters (s.upd c g) :=
  ⟨upd_cfg s c g, upd_active s c g⟩

theorem withEnv_sameParameters (s : State) (e : List Turn) : s.sameParameters { s with env := e } := ⟨rfl, rfl⟩

theorem runTurns_sameParameters {c : Inst} {ts : List Turn} {s t : State} (h : runTurns c ts s = .next t) :
    s.sameParameters t :=
  runTurns_induct (P := s.sameParameters)
    (fun _ _ hp _ hu => hp.trans (seqStep_frame hu).sameParameters)
    (fun _ _ _ hp hu => hp.trans (turn_frame hu).sameParameters)
    (fun u e hp => hp.trans (withEnv_sameParameters u e)) ts s t (.refl s) h

theorem exec_sameParameters {i : Instr} {s t : State} (h : exec i s = .next t) : s.sameParameters t := by
  obtain hr | ⟨r, rfl⟩ := exec_cases h
  · exact (upd_sameParameters s _ _).trans (runTurns_sameParameters (runCommand_eq_next.1 hr).2)
  · exact ⟨rfl, rfl⟩

/-- Settles O53, by the cases of a step: whatever it runs is made of turns and SEQ steps, and each keeps `State.sameFrame`;
around them only the schedule, one instance or the codec's field is written. -/
theorem stepKeepsTheParameters : Obligations.StepKeepsTheParameters := by
  intro s t h
  show s.sameParameters t
  obtain ⟨-, hrun⟩ | ⟨-, ⟨-, ⟨-, rfl⟩ | ⟨x, ts, -, hturn⟩⟩ | ⟨b, -, ⟨e, -, rfl⟩ | ⟨i, -, hexec⟩⟩⟩ := step_cases h
  · exact runTurns_sameParameters hrun
  · exact .refl _
  · exact (withEnv_sameParameters s ts).trans (turn_frame hturn).sameParameters
  · exact upd_sameParameters s _ _
  · exact exec_sameParameters hexec

end Sys2Proof.Machine
end

section
/-! SUPPORT. The rest of what the shared operations and one step of a SEQ can do, said once: the issue of a block, the step
of a sequencer by its phase, and what each command's steps leave alone. -/

namespace Sys2Proof.Machine

/-! ## The step of a sequencer -/

/-- A command is rejected, or its first step is next and the instance is initialised if the command needs it (R58, R106). -/
theorem issue_cases (k : Ctrl) (ph : Phase) :
    k.issue ph = k.illegal ∨ (k.issue ph = k.start ph ∧ (ph.needsInit = true → k.seq.inited = true)) := by
  unfold Ctrl.issue
  split
  next => exact .inl rfl
  next h => exact .inr ⟨rfl, by simpa using h⟩

/-- A block is rejected, or it is the issue of the instruction it decodes to (R90, R105). -/
theorem issueBlock_cases (k : Ctrl) (b : Block) :
    k.issueBlock b = k.illegal ∨ ∃ i, k.issueBlock b = k.issue (startPhase i) := by
  unfold Ctrl.issueBlock
  split
  · exact .inl rfl
  · exact .inr ⟨_, rfl⟩

/-- Everything a step of a SEQ can do (R57): nothing, the issue of the block at the port, or the next step of the running
command. -/
theorem seqStep_cases {c : Inst} {s t : State} (h : seqStep c s = .next t) :
    ((s.ctrl c).seq.phase = .idle ∧ (t = s ∨ ∃ b, t = s.upd c fun k => k.issueBlock b)) ∨
    (∃ op a, (s.ctrl c).seq.phase = .init op a ∧ initStep c op a s = .next t) ∨
    (∃ op a, (s.ctrl c).seq.phase = .filter op a ∧ filterStep c op a s = .next t) ∨
    (∃ fr a, (s.ctrl c).seq.phase = .tx fr a ∧ txStep c fr a s = .next t) ∨
    (∃ f a, (s.ctrl c).seq.phase = .rx f a ∧ rxStep c f a s = .next t) := by
  unfold seqStep at h
  split at h
  next hp =>
    refine .inl ⟨hp, ?_⟩
    split at h
    · cases h; exact .inl rfl
    · cases h; exact .inr ⟨_, rfl⟩
  next op a hp => exact .inr (.inl ⟨op, a, hp, h⟩)
  next op a hp => exact .inr (.inr (.inl ⟨op, a, hp, h⟩))
  next fr a hp => exact .inr (.inr (.inr (.inl ⟨fr, a, hp, h⟩)))
  next f a hp => exact .inr (.inr (.inr (.inr ⟨f, a, hp, h⟩)))

/-! ## The steps of `CFGFILT` -/

/-- What a step of `CFGFILT` does to the controllers (R28, R176): its own instance records an access or none, and goes on or
ends with a response; the other instance is as it was. -/
def State.filterMoved (s t : State) (c : Inst) (op : FilterOp) : Prop :=
  (∀ d, d ≠ c → t.ctrl d = s.ctrl d) ∧
  ∃ tr, (∃ a, t.ctrl c = ((s.ctrl c).updSeq ({ · with trace := tr })).goto (.filter op a)) ∨
    ∃ r, t.ctrl c = ((s.ctrl c).updSeq ({ · with trace := tr })).finish r

theorem filterMoved_goto {s : State} {c : Inst} {op : FilterOp} (g : Filters → Filters) {w : Ctrl → Ctrl} (a : FilterStep)
    (hw : ∃ tr, w (s.ctrl c) = (s.ctrl c).updSeq ({ · with trace := tr })) :
    s.filterMoved ((s.updFlt g).upd c fun k => (w k).goto (.filter op a)) c op := by
  obtain ⟨tr, hw⟩ := hw
  exact ⟨fun d hd => by rw [ctrl_upd_ne _ _ hd, updFlt_ctrl], tr, .inl ⟨a, by rw [ctrl_upd_same, updFlt_ctrl, hw]⟩⟩

theorem filterMoved_finish {s : State} {c : Inst} {op : FilterOp} (g : Filters → Filters) {w : Ctrl → Ctrl} (r : Resp)
    (hw : ∃ tr, w (s.ctrl c) = (s.ctrl c).updSeq ({ · with trace := tr })) :
    s.filterMoved ((s.updFlt g).upd c fun k => (w k).finish r) c op := by
  obtain ⟨tr, hw⟩ := hw
  exact ⟨fun d hd => by rw [ctrl_upd_ne _ _ hd, updFlt_ctrl], tr, .inr ⟨r, by rw [ctrl_upd_same, updFlt_ctrl, hw]⟩⟩

theorem filterStep_moved {c : Inst} {op : FilterOp} {a : FilterStep} {s t : State} (h : filterStep c op a s = .next t) :
    s.filterMoved t c op := by
  cases a <;> simp only [filterStep, writeInInit_eq_next] at h
  case f0 =>
    split at h <;> cases h
    · exact filterMoved_finish id (w := id) _ ⟨_, rfl⟩
    · exact filterMoved_goto id (w := id) _ ⟨_, rfl⟩
  case f2 =>
    split at h <;> cases h
    · exact filterMoved_finish _ _ ⟨_, rfl⟩
    · exact filterMoved_goto id (w := id) _ ⟨_, rfl⟩
  case f8 =>
    split at h <;> cases h
    · exact filterMoved_goto _ _ ⟨_, rfl⟩
    · exact filterMoved_goto id (w := id) _ ⟨_, rfl⟩
  case f1 | f3 => cases h; exact filterMoved_goto _ _ ⟨_, rfl⟩
  case f4 | f5 | f6 | f7a | f7b => obtain ⟨-, rfl⟩ := h; exact filterMoved_goto _ _ ⟨_, rfl⟩
  case f9 => cases h; exact filterMoved_finish _ _ ⟨_, rfl⟩

end Sys2Proof.Machine
end

section
/-! SUPPORT. The invariant of the machine by its parts: the flags of mailboxes and FIFOs, the registers of one instance, the
step its sequencer is at, and the whole state; and what keeps each of them. -/

namespace Sys2Proof.Machine

/-! ## Mailboxes and FIFOs -/

theorem Mailbox.inv_iff (m : Mailbox) :
    m.inv = true ↔ m.tme = !m.ti.txrq ∧ (m.abrq = true → m.ti.txrq = true) ∧ (m.rqcp = true → m.tme = true) ∧
      (m.txok = true → m.rqcp = true) := by
  simp [Mailbox.inv, and_assoc, imp_iff_not_or]

/-- A request clears the flags of the last one (R216). -/
@[simp] theorem request_inv (m : Mailbox) : m.request.inv = true := by
  simp [Mailbox.inv_iff, Mailbox.request]

/-- BUS leaves an empty mailbox with its completion flags (R217, R218). -/
@[simp] theorem conclude_inv (sent : Bool) (m : Mailbox) : (m.conclude sent).inv = true := by
  simp [Mailbox.inv_iff, Mailbox.conclude]

@[simp] theorem mailbox_afterReset_inv (n : Nat) : (Mailbox.afterReset n).inv = true := by
  simp [Mailbox.inv_iff, Mailbox.afterReset]

/-- An abort request stands only on a pending mailbox (R219). -/
theorem abort_inv {m : Mailbox} (h : m.inv = true) : m.abort.inv = true := by
  rw [Mailbox.inv_iff] at h ⊢
  obtain ⟨htme, habrq, hrqcp, htxok⟩ := h
  exact ⟨htme, by simpa [Mailbox.abort, or_imp] using habrq, hrqcp, htxok⟩

/-- Loading an empty mailbox's identifier register with `TXRQ` = 0 keeps it empty (R144). -/
theorem loadTi_inv {m : Mailbox} {w : Word} (h : m.inv = true) (he : m.tme = true) (hw : w.getLsbD 0 = false) :
    ({ m with ti := TiReg.ofWord w } : Mailbox).inv = true := by
  rw [Mailbox.inv_iff] at h ⊢
  obtain ⟨htme, habrq, hrqcp, htxok⟩ := h
  have hq : m.ti.txrq = false := by simpa [he] using htme
  have hq' : (TiReg.ofWord w).txrq = false := hw
  exact ⟨by simp [hq', he], fun ha => absurd (habrq ha) (by simp [hq]), hrqcp, htxok⟩

theorem encodeFrame_ti_bit0 {fr : Frame} {img : Image} (h : encodeFrame fr = some img) : img.ti.getLsbD 0 = false := by
  obtain ⟨id, len, bytes, -, -, rfl⟩ | ⟨id, -, rfl⟩ := encodeFrame_eq_some h <;> exact idImage_bit0 id _

theorem RxFifo.inv_iff (q : RxFifo) :
    q.inv = true ↔ q.queue.length ≤ fifoDepth ∧ q.full = decide (q.queue.length = fifoDepth) ∧
      (q.fovr = true → q.queue.length = fifoDepth) := by
  simp [RxFifo.inv, and_assoc, imp_iff_not_or]

@[simp] theorem rxFifo_reset_inv : RxFifo.reset.inv = true := by decide

/-- After a release there is room for an entry (R164). -/
theorem release_inv {q : RxFifo} (h : q.inv = true) : q.release.inv = true := by
  rw [RxFifo.inv_iff] at h ⊢
  obtain ⟨hlen, -, -⟩ := h
  have : q.queue.length - 1 < fifoDepth := by simp only [fifoDepth] at hlen ⊢; omega
  simp [RxFifo.release, Nat.le_of_lt this, Nat.ne_of_lt this]

/-- `FULL` is set with the third entry (R229). -/
theorem deposit_inv {q : RxFifo} (e : Entry) (h : q.inv = true) (hl : q.queue.length < fifoDepth) :
    (q.deposit e).inv = true := by
  rw [RxFifo.inv_iff] at h ⊢
  obtain ⟨-, hfull, hfovr⟩ := h
  have hno : q.fovr = false := by
    cases hv : q.fovr with
    | false => rfl
    | true => exact absurd (hfovr hv) (Nat.ne_of_lt hl)
  simp [RxFifo.deposit, hfull, hno, Nat.ne_of_lt hl, Nat.succ_le_of_lt hl]

/-- An overrun keeps the FIFO full (R230). -/
theorem overrun_inv {q : RxFifo} (rflm : Bool) (e : Entry) (h : q.inv = true) (hl : q.queue.length = fifoDepth) :
    (q.overrun rflm e).inv = true := by
  rw [RxFifo.inv_iff] at h ⊢
  obtain ⟨-, hfull, -⟩ := h
  have hlen : (q.overrun rflm e).queue.length = fifoDepth := by
    cases rflm <;> simp [RxFifo.overrun, hl]
  have hkeep : (q.overrun rflm e).full = q.full := rfl
  exact ⟨hlen.le, by rw [hkeep, hfull, hl, hlen], fun _ => hlen⟩

/-! ## The registers of one instance -/

/-- The part of `Ctrl.inv` that holds whatever step the sequencer is at. -/
structure Ctrl.regsInv (k : Ctrl) (budget : Nat) : Prop where
  mb : ∀ i, (k.mb i).inv = true
  rf : ∀ f, (k.rf f).inv = true
  btr : k.btr &&& ~~~btrMask = 0
  tick : k.seq.tick ≤ budget
  mode : k.seq.inited = true → k.mcr.inrq = false ∧ k.mcr.sleep = false

theorem Ctrl.inv_iff (k : Ctrl) (budget : Nat) :
    k.inv budget = true ↔ k.regsInv budget ∧ k.phaseInv budget = true := by
  constructor
  · intro h
    simp only [Ctrl.inv, Bool.and_eq_true, decide_eq_true_eq] at h
    obtain ⟨⟨⟨⟨⟨⟨⟨⟨h0, h1⟩, h2⟩, hf0⟩, hf1⟩, hbtr⟩, htick⟩, hmode⟩, hphase⟩ := h
    exact ⟨⟨fun i => by cases i <;> assumption, fun f => by cases f <;> assumption, hbtr, htick,
      fun hi => by simpa [hi] using hmode⟩, hphase⟩
  · intro ⟨⟨hmb, hrf, hbtr, htick, hmode⟩, hphase⟩
    have h0 := hmb .m0
    have h1 := hmb .m1
    have h2 := hmb .m2
    have hf0 := hrf .f0
    have hf1 := hrf .f1
    have hm : (!k.seq.inited || (!k.mcr.inrq && !k.mcr.sleep)) = true := by
      cases hi : k.seq.inited with
      | false => rfl
      | true => simp [hmode hi]
    simp only [Ctrl.mb, Ctrl.rf] at h0 h1 h2 hf0 hf1
    simp [Ctrl.inv, h0, h1, h2, hf0, hf1, hbtr, htick, hm, hphase]

section
variable {k : Ctrl} {budget : Nat} (h : k.regsInv budget)
include h

theorem Ctrl.regsInv.inv (hp : k.phaseInv budget = true) : k.inv budget = true := (Ctrl.inv_iff k budget).2 ⟨h, hp⟩

theorem Ctrl.regsInv.goto (ph : Phase) : (k.goto ph).regsInv budget := ⟨h.mb, h.rf, h.btr, h.tick, h.mode⟩
theorem Ctrl.regsInv.log (a : Access) : (k.log a).regsInv budget := ⟨h.mb, h.rf, h.btr, h.tick, h.mode⟩
theorem Ctrl.regsInv.updLatch (g : Latch → Latch) : (k.updLatch g).regsInv budget := ⟨h.mb, h.rf, h.btr, h.tick, h.mode⟩
theorem Ctrl.regsInv.finish (r : Resp) : (k.finish r).regsInv budget := ⟨h.mb, h.rf, h.btr, h.tick, h.mode⟩
theorem Ctrl.regsInv.ret (st : Status) : (k.ret st).regsInv budget := h.finish _
theorem Ctrl.regsInv.illegal : k.illegal.regsInv budget := ⟨h.mb, h.rf, h.btr, h.tick, h.mode⟩
theorem Ctrl.regsInv.start (ph : Phase) : (k.start ph).regsInv budget := ⟨h.mb, h.rf, h.btr, h.tick, h.mode⟩

theorem Ctrl.regsInv.withMsr (r : MsrReg) : ({ k with msr := r } : Ctrl).regsInv budget :=
  ⟨h.mb, h.rf, h.btr, h.tick, h.mode⟩

theorem Ctrl.regsInv.updSeq {g : Seq → Seq} (htick : (g k.seq).tick ≤ budget)
    (hmode : (g k.seq).inited = true → k.mcr.inrq = false ∧ k.mcr.sleep = false) : (k.updSeq g).regsInv budget :=
  ⟨h.mb, h.rf, h.btr, htick, hmode⟩

theorem Ctrl.regsInv.updMcr {g : McrReg → McrReg}
    (hmode : k.seq.inited = true → (g k.mcr).inrq = false ∧ (g k.mcr).sleep = false) : (k.updMcr g).regsInv budget :=
  ⟨h.mb, h.rf, h.btr, h.tick, hmode⟩

/-- A write to `BTR` leaves the reserved bits 0 (R42). -/
theorem Ctrl.regsInv.writeBtr (w : Word) : (k.writeBtr w).regsInv budget :=
  ⟨h.mb, h.rf, by simp [btrWrite, BitVec.and_assoc], h.tick, h.mode⟩

theorem Ctrl.regsInv.updMb {i : Mb} {g : Mailbox → Mailbox} (hg : (g (k.mb i)).inv = true) :
    (k.updMb i g).regsInv budget where
  mb j := by
    rw [mb_updMb]
    split
    next hj => rw [hj]; exact hg
    next => exact h.mb j
  rf f := by simpa using h.rf f
  btr := by simpa using h.btr
  tick := by simpa using h.tick
  mode := by simpa using h.mode

theorem Ctrl.regsInv.updRf {f : Fifo} {g : RxFifo → RxFifo} (hg : (g (k.rf f)).inv = true) :
    (k.updRf f g).regsInv budget where
  mb i := by simpa using h.mb i
  rf e := by
    rw [rf_updRf]
    split
    next he => rw [he]; exact hg
    next => exact h.rf e
  btr := by simpa using h.btr
  tick := by simpa using h.tick
  mode := by simpa using h.mode

end

/-! ## The phase of one instance -/

@[simp] theorem phaseInv_finish (k : Ctrl) (r : Resp) (budget : Nat) : (k.finish r).phaseInv budget = true := rfl
@[simp] theorem phaseInv_ret (k : Ctrl) (st : Status) (budget : Nat) : (k.ret st).phaseInv budget = true := rfl

@[simp] theorem phaseInv_log (k : Ctrl) (a : Access) (budget : Nat) : (k.log a).phaseInv budget = k.phaseInv budget := rfl

@[simp] theorem phaseInv_goto_init (k : Ctrl) (op : InitOp) (a : InitStep) (budget : Nat) :
    (k.goto (.init op a)).phaseInv budget = k.initInv a := by
  cases a <;> rfl

@[simp] theorem phaseInv_goto_filter (k : Ctrl) (op : FilterOp) (a : FilterStep) (budget : Nat) :
    (k.goto (.filter op a)).phaseInv budget = k.seq.inited := rfl

@[simp] theorem phaseInv_goto_tx (k : Ctrl) (fr : Frame) (a : TxStep) (budget : Nat) :
    (k.goto (.tx fr a)).phaseInv budget = (k.seq.inited && k.txInv budget fr a) := by
  cases a <;> rfl

@[simp] theorem phaseInv_goto_rx (k : Ctrl) (f : Fifo) (a : RxStep) (budget : Nat) :
    (k.goto (.rx f a)).phaseInv budget = (k.seq.inited && k.rxInv f a) := by
  cases a <;> rfl

theorem phaseInv_idle {k : Ctrl} (hp : k.seq.phase = .idle) (budget : Nat) : k.phaseInv budget = true := by
  simp [Ctrl.phaseInv, hp]

theorem phaseInv_init {k : Ctrl} {op : InitOp} {a : InitStep} (hp : k.seq.phase = .init op a) (budget : Nat) :
    k.phaseInv budget = k.initInv a := by
  simp [Ctrl.phaseInv, hp]

theorem phaseInv_filter {k : Ctrl} {op : FilterOp} {a : FilterStep} (hp : k.seq.phase = .filter op a) (budget : Nat) :
    k.phaseInv budget = k.seq.inited := by
  simp [Ctrl.phaseInv, hp]

theorem phaseInv_tx {k : Ctrl} {fr : Frame} {a : TxStep} (hp : k.seq.phase = .tx fr a) (budget : Nat) :
    k.phaseInv budget = (k.seq.inited && k.txInv budget fr a) := by
  simp [Ctrl.phaseInv, hp]

theorem phaseInv_rx {k : Ctrl} {f : Fifo} {a : RxStep} (hp : k.seq.phase = .rx f a) (budget : Nat) :
    k.phaseInv budget = (k.seq.inited && k.rxInv f a) := by
  simp [Ctrl.phaseInv, hp]

/-- What the latched words say of the entry that a running `RX` reads, by the step it is at (R163). -/
def Latch.agrees (l : Latch) (e : Entry) : RxStep → Prop
  | .x1 => True
  | .x2 => True
  | .x3 => l.ri = e.ri
  | .x4 => l.ri = e.ri ∧ l.rdt = e.rdt
  | .x5 => l.ri = e.ri ∧ l.rdt = e.rdt ∧ l.rdl = e.rdl
  | .x6 => l.ri = e.ri ∧ l.rdt = e.rdt ∧ l.rdl = e.rdl ∧ l.rdh = e.rdh
  | .x7 fr => decodeFrame e.ri e.rdt e.rdl e.rdh = some fr

/-- After X1 the words read are those of the entry at the head (R163). -/
theorem rxInv_iff {k : Ctrl} {f : Fifo} {a : RxStep} (ha : a ≠ .x1) :
    k.rxInv f a = true ↔ ∃ e q, (k.rf f).queue = e :: q ∧ k.seq.latch.agrees e a := by
  cases hq : (k.rf f).queue with
  | nil => cases a <;> simp_all [Ctrl.rxInv]
  | cons e q => cases a <;> simp_all [Ctrl.rxInv, Latch.agrees]

/-- The issue of a block at an idle sequencer (R57, R58, R105). -/
theorem issue_inv {k : Ctrl} {budget : Nat} (h : k.inv budget = true) (hp : k.seq.phase = .idle) (i : Instr) :
    (k.issue (startPhase i)).inv budget = true := by
  rw [Ctrl.inv_iff] at h ⊢
  obtain ⟨hr, -⟩ := h
  obtain he | ⟨he, hi⟩ := issue_cases k (startPhase i) <;> rw [he]
  · exact ⟨hr.illegal, phaseInv_idle hp budget⟩
  · refine ⟨hr.start _, ?_⟩
    cases i with
    | init op => rfl
    | cfgfilt op => exact hi rfl
    | tx fr => rw [phaseInv_tx rfl]; simpa [Ctrl.txInv] using hi rfl
    | rx f => rw [phaseInv_rx rfl]; simpa [Ctrl.rxInv] using hi rfl
    | encode fr => rfl
    | decode ri rdt rdl rdh => rfl

theorem illegal_inv {k : Ctrl} {budget : Nat} (h : k.inv budget = true) (hp : k.seq.phase = .idle) :
    k.illegal.inv budget = true := by
  rw [Ctrl.inv_iff] at h ⊢
  exact ⟨h.1.illegal, phaseInv_idle hp budget⟩

theorem issueBlock_inv {k : Ctrl} {budget : Nat} (h : k.inv budget = true) (hp : k.seq.phase = .idle) (b : Block) :
    (k.issueBlock b).inv budget = true := by
  obtain he | ⟨i, he⟩ := issueBlock_cases k b <;> rw [he]
  · exact illegal_inv h hp
  · exact issue_inv h hp i

/-! ## The whole state -/

theorem State.inv_iff (s : State) :
    s.inv = true ↔ s.cfg.valid = true ∧ ∀ c, (s.ctrl c).inv s.cfg.txTickBudget = true := by
  simp only [State.inv, Bool.and_eq_true, and_assoc, and_congr_right_iff]
  exact fun _ => ⟨fun h c => by cases c; exacts [h.1, h.2], fun h => ⟨h .primary, h .secondary⟩⟩

section
variable {s : State} (hs : s.inv = true)
include hs

theorem State.inv_at (c : Inst) : (s.ctrl c).inv s.cfg.txTickBudget = true := ((State.inv_iff s).1 hs).2 c

theorem State.inv_ctrl (c : Inst) : (s.ctrl c).regsInv s.cfg.txTickBudget ∧ (s.ctrl c).phaseInv s.cfg.txTickBudget = true :=
  (Ctrl.inv_iff _ _).1 (State.inv_at hs c)

theorem State.inv_upd {c : Inst} {g : Ctrl → Ctrl} (hk : (g (s.ctrl c)).inv s.cfg.txTickBudget = true) :
    (s.upd c g).inv = true := by
  rw [State.inv_iff] at hs ⊢
  obtain ⟨hv, hc⟩ := hs
  refine ⟨by simpa using hv, fun d => ?_⟩
  rw [ctrl_upd, upd_cfg]
  split
  next hd => rw [hd]; exact hk
  next => exact hc d

theorem State.inv_withEnv (e : List Turn) : ({ s with env := e } : State).inv = true := hs
theorem State.inv_withDraws (n : Nat) : ({ s with draws := n } : State).inv = true := hs
theorem State.inv_withCodec (r : Option CodecResult) : ({ s with codec := r } : State).inv = true := hs
theorem State.inv_updFlt (g : Filters → Filters) : (s.updFlt g).inv = true := hs

/-- A step that reads a register and then changes its own instance. -/
theorem State.inv_afterRead_upd {c : Inst} {r : Reg} {g : Ctrl → Ctrl}
    (hk : (g ((s.ctrl c).log (.R r))).inv s.cfg.txTickBudget = true) : ((s.afterRead c r).upd c g).inv = true := by
  rw [afterRead_upd]
  exact State.inv_upd (State.inv_withDraws hs _) (by simpa using hk)

theorem State.inv_afterRead (c : Inst) (r : Reg) : (s.afterRead c r).inv = true := by
  obtain ⟨hr, hp⟩ := State.inv_ctrl hs c
  exact State.inv_upd (State.inv_withDraws hs _) ((hr.log _).inv (by simpa using hp))

end

end Sys2Proof.Machine
end

section
/-! SUPPORT. Each command's steps keep the invariant, and so do HOST and BUS; the proof that every step of the machine keeps
it (R34, R42, R51, R56, R58, R142, R163, R219, R252). -/

namespace Sys2Proof.Machine

/-! ## `CFGFILT` -/

theorem filterStep_inv {c : Inst} {op : FilterOp} {a : FilterStep} {s t : State} (hs : s.inv = true)
    (hp : (s.ctrl c).seq.phase = .filter op a) (h : filterStep c op a s = .next t) : t.inv = true := by
  obtain ⟨hr, hph⟩ := State.inv_ctrl hs c
  have hi : (s.ctrl c).seq.inited = true := by rwa [phaseInv_filter hp] at hph
  obtain ⟨hne, tr, hmove⟩ := filterStep_moved h
  have hlog : ((s.ctrl c).updSeq ({ · with trace := tr })).regsInv s.cfg.txTickBudget := hr.updSeq hr.tick hr.mode
  obtain ⟨hv, hc⟩ := (State.inv_iff s).1 hs
  rw [State.inv_iff, (filterStep_frame h).1]
  refine ⟨hv, fun d => ?_⟩
  by_cases hd : d = c
  · subst hd
    obtain ⟨a', ha⟩ | ⟨r, ha⟩ := hmove <;> rw [ha, Ctrl.inv_iff]
    · exact ⟨hlog.goto _, by simpa using hi⟩
    · exact ⟨hlog.finish r, by simp⟩
  · rw [hne d hd]; exact hc d

/-! ## `INIT` -/

@[simp] theorem afterReset_seq (k : Ctrl) (n : Nat) : (k.afterReset n).seq = k.seq := rfl

/-- After `Collab.Reset` an instance that is not initialised has its registers in order again (R60, R265). -/
theorem Ctrl.regsInv.afterReset {k : Ctrl} {budget : Nat} (h : k.regsInv budget) (hi : k.seq.inited = false) (n : Nat) :
    (k.afterReset n).regsInv budget where
  mb i := by cases i <;> simp [Ctrl.mb, Ctrl.afterReset]
  rf f := by cases f <;> exact rxFifo_reset_inv
  btr := show btrReset &&& ~~~btrMask = 0 by decide
  tick := h.tick
  mode ht := absurd ht (by simpa [Ctrl.afterReset] using hi)

theorem resetPrimary_inv {s : State} {op : InitOp} (hs : s.inv = true)
    (hp : (s.ctrl .primary).seq.phase = .init op .i2) : s.resetPrimary.inv = true := by
  obtain ⟨hr, hph⟩ := State.inv_ctrl hs .primary
  have hi : (s.ctrl .primary).seq.inited = false := by simpa [phaseInv_init hp, Ctrl.initInv] using hph
  have hreset : (s.upd .primary (·.afterReset s.draws)).inv = true := by
    refine State.inv_upd hs ((hr.afterReset hi _).inv ?_)
    rw [phaseInv_init (a := .i2) (by simpa using hp)]
    simpa [Ctrl.initInv] using hi
  exact hreset

theorem resetSecondary_inv {s : State} (hs : s.inv = true) (hb : s.busy .secondary = false) :
    s.resetSecondary.inv = true := by
  obtain ⟨hr, -⟩ := State.inv_ctrl hs .secondary
  have hp : (s.ctrl .secondary).seq.phase = .idle := (not_busy_iff _).1 hb
  have hreset : (s.upd .secondary fun k => (k.updSeq ({ · with inited := false })).afterReset s.draws).inv = true :=
    State.inv_upd hs (((hr.updSeq hr.tick (by simp)).afterReset rfl _).inv (phaseInv_idle (by simpa using hp) _))
  exact hreset

theorem collabReset_inv {s t : State} {op : InitOp} (hs : s.inv = true)
    (hp : (s.ctrl .primary).seq.phase = .init op .i2) (h : collabReset s = .next t) : t.inv = true := by
  obtain rfl | ⟨rfl, hb⟩ := collabReset_eq_next h
  · exact resetPrimary_inv hs hp
  · exact resetSecondary_inv (resetPrimary_inv hs hp) hb

/-- The sequencer record of the primary is no register (R62). -/
theorem collabReset_seq {s t : State} (h : collabReset s = .next t) : (t.ctrl .primary).seq = (s.ctrl .primary).seq := by
  obtain rfl | ⟨rfl, -⟩ := collabReset_eq_next h <;> rfl

theorem initStep_inv {c : Inst} {op : InitOp} {a : InitStep} {s t : State} (hs : s.inv = true)
    (hp : (s.ctrl c).seq.phase = .init op a) (h : initStep c op a s = .next t) : t.inv = true := by
  obtain ⟨hr, hph⟩ := State.inv_ctrl hs c
  rw [phaseInv_init hp] at hph
  cases a <;> simp only [Ctrl.initInv, Bool.and_eq_true, Bool.not_eq_true'] at hph <;>
    simp only [initStep, regRead_eq_next] at h
  case i0 =>
    split at h <;> cases h
    · exact State.inv_upd hs ((hr.goto _).inv (by simp [Ctrl.initInv]))
    · exact State.inv_upd hs ((hr.ret _).inv (by simp))
  case i1 =>
    cases h
    exact State.inv_upd hs (((hr.updSeq hr.tick (by simp)).goto _).inv (by simp [Ctrl.initInv]))
  case i2 =>
    cases c with
    | secondary => cases h; exact State.inv_upd hs ((hr.goto _).inv (by simpa [Ctrl.initInv] using hph))
    | primary =>
      obtain ⟨m, hm, h⟩ := andThen_eq_next.1 h
      cases h
      have hm3 : (m.ctrl .primary).seq.inited = false := by rw [collabReset_seq hm]; exact hph
      obtain ⟨hmr, -⟩ := State.inv_ctrl (collabReset_inv hs hp hm) .primary
      refine State.inv_upd (collabReset_inv hs hp hm) ((hmr.goto _).inv ?_)
      simpa [Ctrl.initInv] using hm3
  case i3 =>
    cases h
    exact State.inv_upd hs ((((hr.updMcr (by simp [hph])).log _).goto _).inv (by simp [Ctrl.initInv, hph]))
  case i4 =>
    obtain ⟨v, -, h⟩ := h
    split at h
    next hk =>
      cases h
      refine State.inv_afterRead_upd hs (((hr.log _).goto _).inv ?_)
      simpa [Ctrl.initInv, hph] using hk
    next => cases h; exact State.inv_afterRead hs c _
  case i5 =>
    cases h
    exact State.inv_upd hs ((((hr.updMcr (by simp [hph])).log _).goto _).inv (by simp [Ctrl.initInv, hph, applyFlags]))
  case i6 =>
    cases h
    exact State.inv_upd hs ((((hr.writeBtr _).log _).goto _).inv (by simp [Ctrl.initInv, hph]))
  case i7 =>
    cases h
    exact State.inv_upd hs ((((hr.updMcr (by simp [hph])).log _).goto _).inv (by simp [Ctrl.initInv, hph]))
  case i8 =>
    split at h
    · obtain ⟨v, -, h⟩ := regRead_eq_next.1 h
      split at h <;> cases h
      · exact State.inv_afterRead hs c _
      · exact State.inv_afterRead_upd hs (((hr.log _).goto _).inv (by simp [Ctrl.initInv, hph]))
    · cases h; exact State.inv_upd hs ((hr.goto _).inv (by simp [Ctrl.initInv, hph]))
  case i9 =>
    cases h
    exact State.inv_upd hs (((hr.updSeq hr.tick (by simp [hph])).ret _).inv (by simp))

/-! ## `TX` -/

/-- T1 selects an empty mailbox or ends the command (R141 to R143). -/
theorem arbitrate_inv {k : Ctrl} {budget : Nat} (hr : k.regsInv budget) (hi : k.seq.inited = true) (fr : Frame) (v : Word) :
    (k.arbitrate fr v).inv budget = true := by
  rw [Ctrl.inv_iff]
  unfold Ctrl.arbitrate
  split
  next => exact ⟨(hr.updLatch _).ret _, by simp⟩
  next i he =>
    refine ⟨((hr.updLatch _).updSeq hr.tick hr.mode).goto _, ?_⟩
    simpa [hi, Ctrl.txInv, Ctrl.selEmpty] using (firstEmpty_eq_some.1 he).1

/-- T8 ends the command, polls again while the budget lasts, or leads to the abort request (R148, R149). -/
theorem poll_inv {k : Ctrl} {budget : Nat} {fr : Frame} (hr : k.regsInv budget) (hi : k.seq.inited = true)
    (hp : k.seq.phase = .tx fr .t8) (ht : k.seq.tick < budget) (i : Mb) (v : Word) :
    (k.poll i fr budget v).inv budget = true := by
  rw [Ctrl.inv_iff]
  have hl := (hr.updLatch ({ · with tsr := v })).updSeq (g := ({ · with tick := k.seq.tick + 1 })) ht hr.mode
  unfold Ctrl.poll
  dsimp only
  split
  · exact ⟨hl.ret _, by simp⟩
  split
  next hlt => exact ⟨hl, by rw [phaseInv_tx (a := .t8) (by simpa using hp)]; simpa [hi, Ctrl.txInv] using hlt⟩
  next hge => exact ⟨hl.goto _, by simp [hi, Ctrl.txInv]; omega⟩

/-- A step that loads one field of the selected, empty mailbox leaves it empty (R142, R144). -/
theorem load_inv {s : State} {c : Inst} {fr : Frame} {a : TxStep} {g : Mailbox → Mailbox} {x : Access} (hs : s.inv = true)
    (hi : (s.ctrl c).seq.inited = true) (hg : (g ((s.ctrl c).mb (s.ctrl c).seq.sel)).inv = true)
    (ha : (((s.ctrl c).updMb (s.ctrl c).seq.sel g).log x).txInv s.cfg.txTickBudget fr a = true) :
    (s.upd c fun k => ((k.updMb (s.ctrl c).seq.sel g).log x).goto (.tx fr a)).inv = true := by
  obtain ⟨hr, -⟩ := State.inv_ctrl hs c
  refine State.inv_upd hs ((((hr.updMb hg).log _).goto _).inv ?_)
  rw [phaseInv_goto_tx, ha]
  simpa using hi

theorem txStep_inv {c : Inst} {fr : Frame} {a : TxStep} {s t : State} (hs : s.inv = true)
    (hp : (s.ctrl c).seq.phase = .tx fr a) (h : txStep c fr a s = .next t) : t.inv = true := by
  obtain ⟨hr, hph⟩ := State.inv_ctrl hs c
  rw [phaseInv_tx hp, Bool.and_eq_true] at hph
  obtain ⟨hi, htx⟩ := hph
  have hmb := hr.mb (s.ctrl c).seq.sel
  cases a <;> simp only [Ctrl.txInv, Ctrl.selEmpty, Bool.and_eq_true, decide_eq_true_eq] at htx <;>
    simp only [txStep, regRead_eq_next] at h
  case t1 =>
    obtain ⟨v, -, h⟩ := h
    cases h
    exact State.inv_afterRead_upd hs (arbitrate_inv (hr.log _) (by simpa using hi) fr v)
  case t2 =>
    split at h <;> cases h
    next => exact State.inv_upd hs ((hr.ret _).inv (by simp))
    next img he => exact State.inv_upd hs ((hr.goto _).inv (by simp [hi, Ctrl.txInv, Ctrl.selEmpty, htx, he]))
  case t3 img =>
    cases h
    exact load_inv hs hi (loadTi_inv hmb htx.1 (encodeFrame_ti_bit0 htx.2)) (by simp [Ctrl.txInv, Ctrl.selEmpty, htx])
  case t4 img =>
    cases h
    exact load_inv hs hi hmb (by cases img.hasData <;> simp [Ctrl.txInv, Ctrl.selEmpty, htx])
  case t5a img => cases h; exact load_inv hs hi hmb (by simp [Ctrl.txInv, Ctrl.selEmpty, htx])
  case t5b img => cases h; exact load_inv hs hi hmb (by simp [Ctrl.txInv, Ctrl.selEmpty, htx])
  case t6 => cases h; exact load_inv hs hi hmb (by simp [Ctrl.txInv, Ctrl.selEmpty, htx])
  case t7 =>
    cases h
    have hbudget : 0 < s.cfg.txTickBudget := by
      have hv := ((State.inv_iff s).1 hs).1
      simp only [Config.valid, Bool.and_eq_true, decide_eq_true_eq] at hv
      exact hv.1.1
    exact State.inv_upd hs (((((hr.updMb (request_inv _)).log _).updSeq (Nat.zero_le _) (by simpa using hr.mode)).goto _).inv
      (by simpa [hi, Ctrl.txInv] using hbudget))
  case t8 =>
    obtain ⟨v, -, h⟩ := h
    cases h
    refine State.inv_afterRead_upd hs ?_
    rw [afterRead_cfg]
    exact poll_inv (hr.log _) (by simpa using hi) (by simpa using hp) (by simpa using htx) _ v
  case t9 =>
    cases h
    exact State.inv_upd hs ((((hr.updMb (abort_inv hmb)).log _).ret _).inv (by simp))

/-! ## `RX` -/

theorem releaseFifo_regsInv {k : Ctrl} {budget : Nat} (hr : k.regsInv budget) (c : Inst) (f : Fifo) :
    (k.releaseFifo c f).regsInv budget :=
  (hr.updRf (release_inv (hr.rf f))).log _

theorem checkPending_inv {k : Ctrl} {budget : Nat} (hr : k.regsInv budget) (hi : k.seq.inited = true) (f : Fifo) (v : Word) :
    (k.checkPending f v).inv budget = true := by
  rw [Ctrl.inv_iff]
  unfold Ctrl.checkPending
  dsimp only
  split
  next => exact ⟨(hr.updLatch _).ret _, by simp⟩
  next hn =>
    refine ⟨(hr.updLatch _).goto _, ?_⟩
    obtain ⟨e, q, hq⟩ := List.exists_cons_of_length_pos (Nat.pos_of_ne_zero hn)
    rw [phaseInv_goto_rx, Bool.and_eq_true, rxInv_iff (by simp)]
    exact ⟨hi, e, q, by simpa using hq, trivial⟩

/-- A step that latches a word of the head entry and goes on (R163). -/
theorem latchWord_inv {s : State} {c : Inst} {f : Fifo} {a : RxStep} {r : Reg} {g : Latch → Latch} {e : Entry} {q : List Entry}
    (hs : s.inv = true) (hi : (s.ctrl c).seq.inited = true) (hq : ((s.ctrl c).rf f).queue = e :: q) (ha : a ≠ .x1)
    (hl : (g (s.ctrl c).seq.latch).agrees e a) :
    ((s.afterRead c r).upd c fun k => (k.updLatch g).goto (.rx f a)).inv = true := by
  obtain ⟨hr, -⟩ := State.inv_ctrl hs c
  refine State.inv_afterRead_upd hs ((((hr.log _).updLatch _).goto _).inv ?_)
  rw [phaseInv_goto_rx, Bool.and_eq_true, rxInv_iff ha]
  exact ⟨by simpa using hi, e, q, by simpa using hq, by simpa using hl⟩

theorem rxStep_inv {c : Inst} {f : Fifo} {a : RxStep} {s t : State} (hs : s.inv = true)
    (hp : (s.ctrl c).seq.phase = .rx f a) (h : rxStep c f a s = .next t) : t.inv = true := by
  obtain ⟨hr, hph⟩ := State.inv_ctrl hs c
  rw [phaseInv_rx hp, Bool.and_eq_true] at hph
  obtain ⟨hi, hrx⟩ := hph
  by_cases hx : a = .x1
  · subst hx
    simp only [rxStep, regRead_eq_next] at h
    obtain ⟨v, -, h⟩ := h
    cases h
    exact State.inv_afterRead_upd hs (checkPending_inv (hr.log _) (by simpa using hi) f v)
  obtain ⟨e, q, hq, hl⟩ := (rxInv_iff hx).1 hrx
  cases a <;> simp only [Latch.agrees] at hl <;>
    simp only [rxStep, regRead_eq_next, State.regView, hq, List.head?_cons, Option.map_some, Option.some.injEq,
      exists_eq_left'] at h
  case x1 => exact absurd rfl hx
  case x2 => cases h; exact latchWord_inv hs hi hq (by simp) rfl
  case x3 => cases h; exact latchWord_inv hs hi hq (by simp) ⟨hl, rfl⟩
  case x4 => cases h; exact latchWord_inv hs hi hq (by simp) ⟨hl.1, hl.2, rfl⟩
  case x5 => cases h; exact latchWord_inv hs hi hq (by simp) ⟨hl.1, hl.2.1, hl.2.2, rfl⟩
  case x6 =>
    obtain ⟨hri, hrdt, hrdl, hrdh⟩ := hl
    split at h <;> cases h
    next =>
      refine State.inv_upd hs (Ctrl.regsInv.inv ?_ (by simp))
      split
      · exact (releaseFifo_regsInv hr c f).ret _
      · exact hr.ret _
    next fr hd =>
      refine State.inv_upd hs ((hr.goto _).inv ?_)
      rw [phaseInv_goto_rx, Bool.and_eq_true, rxInv_iff (by simp)]
      exact ⟨hi, e, q, hq, by rwa [hri, hrdt, hrdl, hrdh] at hd⟩
  case x7 fr => cases h; exact State.inv_upd hs (((releaseFifo_regsInv hr c f).finish _).inv (by simp))

/-! ## The agents -/

theorem seqStep_inv {c : Inst} {s t : State} (hs : s.inv = true) (h : seqStep c s = .next t) : t.inv = true := by
  obtain ⟨hp, rfl | ⟨b, rfl⟩⟩ | ⟨op, a, hp, h⟩ | ⟨op, a, hp, h⟩ | ⟨fr, a, hp, h⟩ | ⟨f, a, hp, h⟩ := seqStep_cases h
  · exact hs
  · exact State.inv_upd hs (issueBlock_inv (State.inv_at hs c) hp b)
  · exact initStep_inv hs hp h
  · exact filterStep_inv hs hp h
  · exact txStep_inv hs hp h
  · exact rxStep_inv hs hp h

/-- BUS clears `INAK` only when `INRQ` is clear (R225). -/
theorem busStep_inak {c d : Inst} {e : BusStep} {s t : State} (h : busStep c e s = some t)
    (hq : (s.ctrl d).mcr.inrq = true) (hk : (s.ctrl d).msr.inak = true) : (t.ctrl d).msr.inak = true := by
  by_cases hd : d = c
  · subst hd
    cases e <;> simp only [busStep, Option.ite_none_right_eq_some, Option.some.injEq] at h <;> obtain ⟨hg, rfl⟩ := h
    case inakClr => simp [hq] at hg
    all_goals simp [hk]
  · have hsame : t.ctrl d = s.ctrl d := by
      obtain ⟨r, rfl⟩ | ⟨i, b, -, -, rfl⟩ | ⟨f, im, -, -, -, rfl⟩ | ⟨f, im, -, -, -, rfl⟩ := busStep_cases h <;>
        exact ctrl_upd_ne _ _ hd
    rw [hsame]; exact hk

theorem busStep_regsInv {c : Inst} {e : BusStep} {s t : State} {budget : Nat} (h : busStep c e s = some t) (d : Inst)
    (hr : (s.ctrl d).regsInv budget) : (t.ctrl d).regsInv budget := by
  obtain ⟨r, rfl⟩ | ⟨i, b, -, -, rfl⟩ | ⟨f, im, -, -, hl, rfl⟩ | ⟨f, im, -, -, hl, rfl⟩ := busStep_cases h <;>
    rw [ctrl_upd] <;> split
  case inl.isTrue => exact hr.withMsr r
  case inr.inl.isTrue => exact hr.updMb (conclude_inv b _)
  case inr.inr.inl.isTrue hd => subst hd; exact hr.updRf (deposit_inv im (hr.rf f) hl)
  case inr.inr.inr.isTrue hd => subst hd; exact hr.updRf (overrun_inv _ im (hr.rf f) hl)
  all_goals exact hr

/-- What BUS leaves alone is what the step of a running command rests on (R142, R163, R237, R252). -/
theorem busKept_phaseInv {k l : Ctrl} {budget : Nat} (h : k.busKept l)
    (hk : k.mcr.inrq = true → k.msr.inak = true → l.msr.inak = true) (hp : k.phaseInv budget = true) :
    l.phaseInv budget = true := by
  have hsel (he : k.selEmpty = true) : l.selEmpty = true := by
    unfold Ctrl.selEmpty at he ⊢
    rw [h.seq]; exact h.tme _ he
  cases hph : k.seq.phase with
  | idle => exact phaseInv_idle (by rw [h.seq, hph]) budget
  | init op a =>
    rw [phaseInv_init hph] at hp
    rw [phaseInv_init (by rw [h.seq, hph])]
    cases a <;> simp_all [Ctrl.initInv, h.seq, h.mcr]
  | filter op a =>
    rw [phaseInv_filter hph] at hp
    rw [phaseInv_filter (by rw [h.seq, hph]), h.seq, hp]
  | tx fr a =>
    rw [phaseInv_tx hph, Bool.and_eq_true] at hp
    rw [phaseInv_tx (by rw [h.seq, hph]), h.seq, hp.1]
    cases a <;> simp_all [Ctrl.txInv, h.seq]
  | rx f a =>
    rw [phaseInv_rx hph, Bool.and_eq_true] at hp
    rw [phaseInv_rx (by rw [h.seq, hph]), h.seq, hp.1, Bool.true_and]
    by_cases ha : a = .x1
    · subst ha; rfl
    · obtain ⟨e, q, hq, hl⟩ := (rxInv_iff ha).1 hp.2
      obtain ⟨q', hq'⟩ := h.head f e q hq
      exact (rxInv_iff ha).2 ⟨e, q', hq', by rw [h.seq]; exact hl⟩

theorem busStep_inv {c : Inst} {e : BusStep} {s t : State} (hs : s.inv = true) (h : busStep c e s = some t) :
    t.inv = true := by
  rw [State.inv_iff, (busStep_frame h).1]
  refine ⟨((State.inv_iff s).1 hs).1, fun d => ?_⟩
  obtain ⟨hr, hp⟩ := State.inv_ctrl hs d
  exact (busStep_regsInv h d hr).inv (busKept_phaseInv (busStep_kept h d) (busStep_inak h) hp)

theorem turn_inv {x : Turn} {s t : State} (hs : s.inv = true) (h : turn x s = .next t) : t.inv = true := by
  obtain ⟨c, b, -, -, -, rfl⟩ | ⟨c, -, h⟩ | ⟨c, e, -, h | rfl⟩ := turn_cases h
  · exact State.inv_upd hs (State.inv_at hs c)
  · exact seqStep_inv hs h
  · exact busStep_inv hs h
  · exact hs

theorem runTurns_inv {c : Inst} {ts : List Turn} {s t : State} (hs : s.inv = true) (h : runTurns c ts s = .next t) :
    t.inv = true :=
  runTurns_induct (P := fun s => s.inv = true) (fun _ _ hu _ hm => seqStep_inv hu hm) (fun _ _ _ hu hm => turn_inv hu hm)
    (fun _ e hu => State.inv_withEnv hu e) ts s t hs h

theorem exec_inv {i : Instr} {s t : State} (hs : s.inv = true) (h : exec i s = .next t) : t.inv = true := by
  obtain hrun | ⟨r, rfl⟩ := exec_cases h
  · obtain ⟨hb, hrun⟩ := runCommand_eq_next.1 hrun
    have hstart : (s.upd s.active fun k => k.issue (startPhase i)).inv = true :=
      State.inv_upd hs (issue_inv (State.inv_at hs _) ((not_busy_iff _).1 hb) i)
    exact runTurns_inv hstart hrun
  · exact State.inv_withCodec hs r

/-- Settles O52, by the cases of a step: every step of a SEQ keeps the invariant (one lemma for each command), so do HOST and
BUS, and a step of the machine is made of such turns. -/
theorem stepKeepsTheInvariant : Obligations.StepKeepsTheInvariant := by
  intro s t hs h
  obtain ⟨-, hrun⟩ | ⟨hb, ⟨-, ⟨-, rfl⟩ | ⟨x, ts, -, hturn⟩⟩ | ⟨b, -, ⟨e, -, rfl⟩ | ⟨i, -, hexec⟩⟩⟩ := step_cases h
  · exact runTurns_inv hs hrun
  · exact hs
  · exact turn_inv (State.inv_withEnv hs ts) hturn
  · exact State.inv_upd hs (illegal_inv (State.inv_at hs _) ((not_busy_iff _).1 hb))
  · exact exec_inv hs hexec

end Sys2Proof.Machine
end

section
/-! SUPPORT. The frame of `CFGFILT`: what its run alone leaves of both controllers (R28, R83). -/

namespace Sys2Proof.Machine

/-- A controller whose `CFGFILT` runs or has ended, against the controller at its issue: only the port, the response and the
phase, operands and access record of the sequencer may differ. -/
def Ctrl.duringFilter (k l : Ctrl) : Prop :=
  (l.seq.phase = .idle ∨ ∃ op a, l.seq.phase = .filter op a) ∧
  ∃ ph tr o r, l =
    { k with cmd := none, resp := r, seq := { k.seq with phase := ph, trace := tr, operands := o } }

theorem start_duringFilter (k : Ctrl) (op : FilterOp) (a : FilterStep) : k.duringFilter (k.start (.filter op a)) :=
  ⟨.inr ⟨op, a, rfl⟩, _, _, _, _, rfl⟩

/-- Each step of `CFGFILT` keeps the frame of the controllers. -/
theorem filterStep_duringFilter {k : Ctrl} {c : Inst} {op : FilterOp} {a : FilterStep} {s t : State}
    (hk : k.duringFilter (s.ctrl c)) (h : filterStep c op a s = .next t) : k.duringFilter (t.ctrl c) := by
  obtain ⟨-, ph, tr, o, r, hl⟩ := hk
  obtain ⟨-, tr', ⟨a', ha⟩ | ⟨r', ha⟩⟩ := filterStep_moved h <;> rw [ha, hl]
  · exact ⟨.inr ⟨op, a', rfl⟩, _, _, _, _, rfl⟩
  · exact ⟨.inl rfl, _, _, _, _, rfl⟩

theorem duringFilter_ended {k l : Ctrl} (h : k.duringFilter l) (hk : k.seq.phase = .idle) (hl : l.seq.phase = .idle) :
    ∃ tr o, l = { k with cmd := none, resp := l.resp, seq := { k.seq with trace := tr, operands := o } } := by
  obtain ⟨-, ph, tr, o, r, rfl⟩ := h
  refine ⟨tr, o, ?_⟩
  have hph : ph = k.seq.phase := hl.trans hk.symm
  rw [hph]

theorem other_ne (c : Inst) : c.other ≠ c := by cases c <;> decide

/-- Settles O31, by induction over the run of the command alone: its steps keep the frame, and it ends, since only an `INIT`
waits. -/
theorem cfgfiltLeavesTheControllersAlone : Obligations.CfgfiltLeavesTheControllersAlone := by
  intro s t c op hcan henv h
  simp only [State.canIssue, Bool.and_eq_true] at hcan
  obtain ⟨hidle, hinit⟩ := hcan
  have hphase : (s.ctrl c).seq.phase = .idle := by
    simp only [State.idleAt, Bool.and_eq_true, Bool.not_eq_true'] at hidle
    exact (not_busy_iff _).1 hidle.2
  have hrun : runTurns c [] (s.upd c fun k => k.issue (.filter op .f0)) = .next t := by
    rw [← henv, ← runCommand_idle _ hidle]; exact h
  have hend := runTurns_ends [] _ t hrun
  obtain ⟨hother, hown⟩ : t.ctrl c.other = s.ctrl c.other ∧ (s.ctrl c).duringFilter (t.ctrl c) := by
    refine runAlone_induct (P := fun u => u.ctrl c.other = s.ctrl c.other ∧ (s.ctrl c).duringFilter (u.ctrl c))
      ?_ _ _ t ?_ hrun
    · intro u v ⟨ho, hd⟩ hb hv
      obtain ⟨hp | ⟨op', a, hp⟩, -⟩ := id hd
      · exact absurd hp ((busy_iff _).1 hb)
      · have hstep : filterStep c op' a u = .next v := by simpa only [seqStep, hp] using hv
        exact ⟨((filterStep_moved hstep).1 _ (other_ne c)).trans ho, filterStep_duringFilter hd hstep⟩
    · simp only [ctrl_withEnv, ctrl_upd_same, ctrl_upd_other, issue_inited _ hinit, true_and]
      exact start_duringFilter _ op .f0
  refine ⟨hother, duringFilter_ended hown hphase ?_⟩
  obtain hb | hw := hend
  · exact (not_busy_iff _).1 hb
  · obtain ⟨hp | ⟨op', a, hp⟩, -⟩ := hown
    · exact hp
    · obtain ⟨op'', hq | hq⟩ := waiting_init hw <;> simp [hp] at hq

end Sys2Proof.Machine
end

section
/-! SUPPORT. Which turns write the behaviour flags of `MCR` and the bit timing (R40, R42, R252). -/

namespace Sys2Proof.Machine

/-- The behaviour flags of `MCR` and the bit timing are the same (R40, R42). -/
def Ctrl.sameSettings (k l : Ctrl) : Prop :=
  l.btr = k.btr ∧ l.mcr.txfp = k.mcr.txfp ∧ l.mcr.rflm = k.mcr.rflm ∧ l.mcr.nart = k.mcr.nart ∧
    l.mcr.awum = k.mcr.awum ∧ l.mcr.abom = k.mcr.abom

theorem sameSettings_of_eq {k l : Ctrl} (hm : l.mcr = k.mcr) (hb : l.btr = k.btr) : k.sameSettings l := by
  simp [Ctrl.sameSettings, hm, hb]

theorem upd_sameSettings {s : State} {c : Inst} {g : Ctrl → Ctrl} (hg : (s.ctrl c).sameSettings (g (s.ctrl c))) (d : Inst) :
    (s.ctrl d).sameSettings ((s.upd c g).ctrl d) := by
  rw [ctrl_upd]
  split
  next hd => rw [hd]; exact hg
  next => exact sameSettings_of_eq rfl rfl

theorem afterRead_upd_sameSettings {s : State} {c : Inst} {r : Reg} {g : Ctrl → Ctrl}
    (hg : ((s.ctrl c).log (.R r)).sameSettings (g ((s.ctrl c).log (.R r)))) (d : Inst) :
    (s.ctrl d).sameSettings (((s.afterRead c r).upd c g).ctrl d) := by
  have hupd := upd_sameSettings (s := { s with draws := s.draws + 1 }) (c := c) (g := fun k => g (k.log (.R r)))
    (by rw [ctrl_withDraws]; exact hg) d
  rwa [ctrl_withDraws, ← afterRead_upd] at hupd

theorem afterRead_sameSettings (s : State) (c : Inst) (r : Reg) (d : Inst) :
    (s.ctrl d).sameSettings ((s.afterRead c r).ctrl d) := by
  have hupd := upd_sameSettings (s := { s with draws := s.draws + 1 }) (c := c) (g := (·.log (.R r)))
    (sameSettings_of_eq rfl rfl) d
  rwa [ctrl_withDraws] at hupd

theorem issueBlock_sameSettings (k : Ctrl) (b : Block) : k.sameSettings (k.issueBlock b) := by
  obtain he | ⟨i, he⟩ := issueBlock_cases k b
  · rw [he]; exact sameSettings_of_eq rfl rfl
  · obtain hi | ⟨hi, -⟩ := issue_cases k (startPhase i) <;> rw [he, hi] <;> exact sameSettings_of_eq rfl rfl

theorem arbitrate_sameSettings (k : Ctrl) (fr : Frame) (v : Word) : k.sameSettings (k.arbitrate fr v) := by
  unfold Ctrl.arbitrate
  split <;> exact sameSettings_of_eq rfl rfl

theorem poll_sameSettings (k : Ctrl) (i : Mb) (fr : Frame) (budget : Nat) (v : Word) :
    k.sameSettings (k.poll i fr budget v) := by
  unfold Ctrl.poll
  dsimp only
  repeat' split
  all_goals exact sameSettings_of_eq rfl rfl

theorem checkPending_sameSettings (k : Ctrl) (f : Fifo) (v : Word) : k.sameSettings (k.checkPending f v) := by
  unfold Ctrl.checkPending
  dsimp only
  split <;> exact sameSettings_of_eq rfl rfl

theorem filterStep_sameSettings {c : Inst} {op : FilterOp} {a : FilterStep} {s t : State}
    (h : filterStep c op a s = .next t) (d : Inst) : (s.ctrl d).sameSettings (t.ctrl d) := by
  obtain ⟨hne, tr, hown⟩ := filterStep_moved h
  by_cases hd : d = c
  · subst hd
    obtain ⟨a', ha⟩ | ⟨r, ha⟩ := hown <;> rw [ha] <;> exact sameSettings_of_eq rfl rfl
  · rw [hne d hd]; exact sameSettings_of_eq rfl rfl

theorem txStep_sameSettings {c : Inst} {fr : Frame} {a : TxStep} {s t : State} (h : txStep c fr a s = .next t) (d : Inst) :
    (s.ctrl d).sameSettings (t.ctrl d) := by
  cases a <;> simp only [txStep, regRead_eq_next] at h
  case t1 =>
    obtain ⟨v, -, h⟩ := h
    cases h
    exact afterRead_upd_sameSettings (arbitrate_sameSettings _ fr v) d
  case t8 =>
    obtain ⟨v, -, h⟩ := h
    cases h
    exact afterRead_upd_sameSettings (poll_sameSettings _ _ fr _ v) d
  case t2 => split at h <;> cases h <;> exact upd_sameSettings (sameSettings_of_eq rfl rfl) d
  all_goals
    cases h
    exact upd_sameSettings (sameSettings_of_eq (by simp) (by simp)) d

theorem rxStep_sameSettings {c : Inst} {f : Fifo} {a : RxStep} {s t : State} (h : rxStep c f a s = .next t) (d : Inst) :
    (s.ctrl d).sameSettings (t.ctrl d) := by
  cases a <;> simp only [rxStep, regRead_eq_next] at h
  case x1 =>
    obtain ⟨v, -, h⟩ := h
    cases h
    exact afterRead_upd_sameSettings (checkPending_sameSettings _ f v) d
  case x2 | x3 | x4 | x5 =>
    obtain ⟨v, -, h⟩ := h
    cases h
    exact afterRead_upd_sameSettings (sameSettings_of_eq rfl rfl) d
  case x6 =>
    split at h <;> cases h
    · refine upd_sameSettings ?_ d
      split <;> exact sameSettings_of_eq (by simp [Ctrl.releaseFifo]) (by simp [Ctrl.releaseFifo])
    · exact upd_sameSettings (sameSettings_of_eq rfl rfl) d
  case x7 fr =>
    cases h
    exact upd_sameSettings (sameSettings_of_eq (by simp [Ctrl.releaseFifo]) (by simp [Ctrl.releaseFifo])) d

/-- I3 and I7 write mode requests only; I5 and I6 write the settings of their own instance, and the reset at I2 of the
primary writes those of its scope (R201, R203). -/
theorem initStep_settings {c : Inst} {op : InitOp} {a : InitStep} {s t : State} (h : initStep c op a s = .next t) (d : Inst) :
    (s.ctrl d).sameSettings (t.ctrl d) ∨ (d = c ∧ (a = .i5 ∨ a = .i6)) ∨ (c = .primary ∧ a = .i2) := by
  have own {g : Ctrl → Ctrl} : d = c ∨ (s.ctrl d).sameSettings ((s.upd c g).ctrl d) := by
    by_cases hd : d = c
    · exact .inl hd
    · rw [ctrl_upd_ne _ _ hd]; exact .inr (sameSettings_of_eq rfl rfl)
  cases a <;> simp only [initStep, regRead_eq_next] at h
  case i0 => split at h <;> cases h <;> exact .inl (upd_sameSettings (sameSettings_of_eq rfl rfl) d)
  case i2 =>
    cases c with
    | primary => exact .inr (.inr ⟨rfl, rfl⟩)
    | secondary => cases h; exact .inl (upd_sameSettings (sameSettings_of_eq rfl rfl) d)
  case i4 =>
    obtain ⟨v, -, h⟩ := h
    split at h <;> cases h
    · exact .inl (afterRead_upd_sameSettings (sameSettings_of_eq rfl rfl) d)
    · exact .inl (afterRead_sameSettings s c _ d)
  case i5 => cases h; exact own.symm.imp_right fun hd => .inl ⟨hd, .inl rfl⟩
  case i6 => cases h; exact own.symm.imp_right fun hd => .inl ⟨hd, .inr rfl⟩
  case i8 =>
    split at h
    · obtain ⟨v, -, h⟩ := regRead_eq_next.1 h
      split at h <;> cases h
      · exact .inl (afterRead_sameSettings s c _ d)
      · exact .inl (afterRead_upd_sameSettings (sameSettings_of_eq rfl rfl) d)
    · cases h; exact .inl (upd_sameSettings (sameSettings_of_eq rfl rfl) d)
  case i1 | i3 | i7 | i9 => cases h; exact .inl (upd_sameSettings ⟨rfl, rfl, rfl, rfl, rfl, rfl⟩ d)

theorem seqStep_settings {c : Inst} {s t : State} (h : seqStep c s = .next t) (d : Inst) :
    (s.ctrl d).sameSettings (t.ctrl d) ∨
    (d = c ∧ ∃ op, (s.ctrl c).seq.phase = .init op .i5 ∨ (s.ctrl c).seq.phase = .init op .i6) ∨
    (c = .primary ∧ ∃ op, (s.ctrl c).seq.phase = .init op .i2) := by
  obtain ⟨-, rfl | ⟨b, rfl⟩⟩ | ⟨op, a, hp, h⟩ | ⟨op, a, -, h⟩ | ⟨fr, a, -, h⟩ | ⟨f, a, -, h⟩ := seqStep_cases h
  · exact .inl (sameSettings_of_eq rfl rfl)
  · exact .inl (upd_sameSettings (issueBlock_sameSettings _ b) d)
  · obtain hs | ⟨hd, rfl | rfl⟩ | ⟨hc, rfl⟩ := initStep_settings h d
    · exact .inl hs
    · exact .inr (.inl ⟨hd, op, .inl hp⟩)
    · exact .inr (.inl ⟨hd, op, .inr hp⟩)
    · exact .inr (.inr ⟨hc, op, hp⟩)
  · exact .inl (filterStep_sameSettings h d)
  · exact .inl (txStep_sameSettings h d)
  · exact .inl (rxStep_sameSettings h d)

theorem turn_settings {x : Turn} {s t : State} (h : turn x s = .next t) (d : Inst) :
    (s.ctrl d).sameSettings (t.ctrl d) ∨
    (x = .seq d ∧ ∃ op, (s.ctrl d).seq.phase = .init op .i5 ∨ (s.ctrl d).seq.phase = .init op .i6) ∨
    (x = .seq .primary ∧ ∃ op, (s.ctrl .primary).seq.phase = .init op .i2) := by
  obtain ⟨c, b, -, -, -, rfl⟩ | ⟨c, rfl, hseq⟩ | ⟨c, e, -, hbus | rfl⟩ := turn_cases h
  · exact .inl (upd_sameSettings (sameSettings_of_eq rfl rfl) d)
  · obtain hs | ⟨rfl, hp⟩ | ⟨rfl, hp⟩ := seqStep_settings hseq d
    · exact .inl hs
    · exact .inr (.inl ⟨rfl, hp⟩)
    · exact .inr (.inr ⟨rfl, hp⟩)
  · exact .inl (sameSettings_of_eq (busStep_kept hbus d).mcr (busStep_kept hbus d).btr)
  · exact .inl (sameSettings_of_eq rfl rfl)

/-- The invariant has an instance at I5 or I6 in initialisation mode (R252). -/
theorem initMode_of_inv {s : State} {c : Inst} {op : InitOp} (hs : s.inv = true)
    (hp : (s.ctrl c).seq.phase = .init op .i5 ∨ (s.ctrl c).seq.phase = .init op .i6) :
    (s.ctrl c).mcr.inrq = true ∧ (s.ctrl c).msr.inak = true := by
  obtain ⟨-, hph⟩ := State.inv_ctrl hs c
  obtain hp | hp := hp <;> rw [phaseInv_init hp] at hph <;>
    simp only [Ctrl.initInv, Bool.and_eq_true, Bool.not_eq_true'] at hph <;> exact ⟨hph.1.1.2, hph.2⟩

/-- Settles O56: a turn leaves the settings of each instance alone except at the two steps of its own `INIT` that write them,
where the invariant gives initialisation mode, and at the reset. -/
theorem controlRegistersChangeOnlyInInitMode : Obligations.ControlRegistersChangeOnlyInInitMode := by
  intro x s t c hs h hchange
  obtain ⟨hbtr, htxfp, hrflm, hnart, hawum, habom⟩ | ⟨hx, op, hp⟩ | ⟨hx, hp⟩ := turn_settings h c
  · simp [hbtr, htxfp, hrflm, hnart, hawum, habom] at hchange
  · obtain ⟨hq, hk⟩ := initMode_of_inv hs hp
    exact .inl ⟨hx, hq, hk, op, hp⟩
  · exact .inr ⟨hx, hp⟩

end Sys2Proof.Machine
end

section
/-! SUPPORT. Which turns write the filter block, and which of its registers (R44, R48, R252, R276). -/

namespace Sys2Proof.Machine

theorem initStep_flt {c : Inst} {op : InitOp} {a : InitStep} {s t : State} (h : initStep c op a s = .next t) :
    t.flt = s.flt ∨ (c = .primary ∧ a = .i2) := by
  cases a <;> simp only [initStep, regRead_eq_next] at h
  case i0 => split at h <;> cases h <;> exact .inl (upd_flt s c _)
  case i2 =>
    cases c with
    | primary => exact .inr ⟨rfl, rfl⟩
    | secondary => cases h; exact .inl (upd_flt s _ _)
  case i4 => obtain ⟨v, -, h⟩ := h; split at h <;> cases h <;> exact .inl (by simp)
  case i8 =>
    split at h
    · obtain ⟨v, -, h⟩ := regRead_eq_next.1 h
      split at h <;> cases h <;> exact .inl (by simp)
    · cases h; exact .inl (upd_flt s c _)
  all_goals cases h; exact .inl (upd_flt s c _)

theorem txStep_flt {c : Inst} {fr : Frame} {a : TxStep} {s t : State} (h : txStep c fr a s = .next t) : t.flt = s.flt := by
  cases a <;> simp only [txStep, regRead_eq_next] at h
  case t1 | t8 => obtain ⟨v, -, h⟩ := h; cases h; simp
  case t2 => split at h <;> cases h <;> exact upd_flt s c _
  all_goals cases h; exact upd_flt s c _

theorem rxStep_flt {c : Inst} {f : Fifo} {a : RxStep} {s t : State} (h : rxStep c f a s = .next t) : t.flt = s.flt := by
  cases a <;> simp only [rxStep, regRead_eq_next] at h
  case x6 => split at h <;> cases h <;> exact upd_flt s c _
  case x7 => cases h; exact upd_flt s c _
  all_goals obtain ⟨v, -, h⟩ := h; cases h; simp

/-- Only a step of `CFGFILT` and the reset at I2 of the primary write the filter block (R176, R203). -/
theorem turn_flt {x : Turn} {s t : State} (h : turn x s = .next t) :
    t.flt = s.flt ∨
    (∃ c op a, x = .seq c ∧ (s.ctrl c).seq.phase = .filter op a ∧ filterStep c op a s = .next t) ∨
    (x = .seq .primary ∧ ∃ op, (s.ctrl .primary).seq.phase = .init op .i2) := by
  obtain ⟨c, b, -, -, -, rfl⟩ | ⟨c, rfl, hseq⟩ | ⟨c, e, -, hbus | rfl⟩ := turn_cases h
  · exact .inl (upd_flt s c _)
  · obtain ⟨-, rfl | ⟨b, rfl⟩⟩ | ⟨op, a, hp, h⟩ | ⟨op, a, hp, h⟩ | ⟨fr, a, -, h⟩ | ⟨f, a, -, h⟩ := seqStep_cases hseq
    · exact .inl rfl
    · exact .inl (upd_flt s c _)
    · obtain hf | ⟨rfl, rfl⟩ := initStep_flt h
      · exact .inl hf
      · exact .inr (.inr ⟨rfl, op, hp⟩)
    · exact .inr (.inl ⟨c, op, a, rfl, hp, h⟩)
    · exact .inl (txStep_flt h)
    · exact .inl (rxStep_flt h)
  · exact .inl (busStep_flt hbus)
  · exact .inl rfl

/-- The five registers that are written in filter-bank initialisation mode only are the same (R276). -/
def Filters.sameBanks (f g : Filters) : Prop :=
  g.fs1r = f.fs1r ∧ g.fm1r = f.fm1r ∧ g.ffa1r = f.ffa1r ∧ g.fr1 = f.fr1 ∧ g.fr2 = f.fr2

theorem Filters.sameBanks.refl (f : Filters) : f.sameBanks f := ⟨rfl, rfl, rfl, rfl, rfl⟩

/-- F4 to F7 write the five registers, and stop unless `FINIT` is set (R176, R276). -/
theorem filterStep_banks {c : Inst} {op : FilterOp} {a : FilterStep} {s t : State} (h : filterStep c op a s = .next t) :
    s.flt.sameBanks t.flt ∨ (s.flt.finit = true ∧ a ∈ [.f4, .f5, .f6, .f7a, .f7b]) := by
  cases a <;> simp only [filterStep, writeInInit_eq_next] at h
  case f4 | f5 | f6 | f7a | f7b => exact .inr ⟨h.1, by decide⟩
  case f0 | f2 | f8 => split at h <;> cases h <;> rw [upd_flt] <;> exact .inl (.refl s.flt)
  case f1 | f3 | f9 => cases h; rw [upd_flt]; exact .inl (.refl s.flt)

/-- F3 and F8 write `FA1R` (R176). -/
theorem filterStep_fa1r {c : Inst} {op : FilterOp} {a : FilterStep} {s t : State} (h : filterStep c op a s = .next t) :
    t.flt.fa1r = s.flt.fa1r ∨ a ∈ [.f3, .f8] := by
  cases a <;> simp only [filterStep, writeInInit_eq_next] at h
  case f3 | f8 => exact .inr (by decide)
  case f4 | f5 | f6 | f7a | f7b => obtain ⟨-, rfl⟩ := h; exact .inl (by simp)
  case f0 | f2 => split at h <;> cases h <;> exact .inl (by simp)
  case f1 | f9 => cases h; exact .inl (by simp)

/-- Settles O57: a turn writes the filter block by a step of `CFGFILT` or by the reset, and of the former by the steps that
write the register in question. -/
theorem bankRegistersChangeOnlyInFilterInitMode : Obligations.BankRegistersChangeOnlyInFilterInitMode := by
  intro x s t h
  obtain hflt | ⟨c, op, a, hx, hp, hstep⟩ | hreset := turn_flt h
  · simp [hflt]
  · refine ⟨fun hchange => .inl ?_, fun hchange => .inl ⟨c, op, a, hx, hp, (filterStep_fa1r hstep).resolve_left hchange⟩⟩
    obtain ⟨hfs, hfm, hffa, hfr1, hfr2⟩ | ⟨hfinit, ha⟩ := filterStep_banks hstep
    · simp [hfs, hfm, hffa, hfr1, hfr2] at hchange
    · exact ⟨hfinit, c, op, a, hx, hp, ha⟩
  · exact ⟨fun _ => .inr hreset, fun _ => .inr hreset⟩

end Sys2Proof.Machine
end

section
/-! SUPPORT. The register map, the words that `TSR`, `RF[f]` and `TI[i]` show, and the state after reset (R21, R22, R34, R35,
R51, R60, R62, R71, R74, R77, R267). -/

namespace Sys2Proof.Machine

/-! ## The register map (R21, R71, R74) -/

/-- The register at an offset of an instance's block, read off the map of R21: it undoes `Reg.offset`. -/
def regAt (c : Inst) (n : Nat) : Reg :=
  if 0x240 ≤ n then
    if n % 8 = 0 then .fr1 ((n - 0x240) / 8) else .fr2 ((n - 0x244) / 8)
  else match n with
    | 0x000 => .mcr c
    | 0x004 => .msr c
    | 0x008 => .tsr c
    | 0x00C => .rf c .f0
    | 0x010 => .rf c .f1
    | 0x01C => .btr c
    | 0x180 => .ti c .m0
    | 0x184 => .tdt c .m0
    | 0x188 => .tdl c .m0
    | 0x18C => .tdh c .m0
    | 0x190 => .ti c .m1
    | 0x194 => .tdt c .m1
    | 0x198 => .tdl c .m1
    | 0x19C => .tdh c .m1
    | 0x1A0 => .ti c .m2
    | 0x1A4 => .tdt c .m2
    | 0x1A8 => .tdl c .m2
    | 0x1AC => .tdh c .m2
    | 0x1B0 => .ri c .f0
    | 0x1B4 => .rdt c .f0
    | 0x1B8 => .rdl c .f0
    | 0x1BC => .rdh c .f0
    | 0x1C0 => .ri c .f1
    | 0x1C4 => .rdt c .f1
    | 0x1C8 => .rdl c .f1
    | 0x1CC => .rdh c .f1
    | 0x200 => .fmr
    | 0x204 => .fm1r
    | 0x20C => .fs1r
    | 0x214 => .ffa1r
    | _ => .fa1r

theorem regAt_offset (r : Reg) : regAt r.home r.offset = r := by
  cases r with
  | mcr c | msr c | tsr c | btr c => rfl
  | rf c f | ri c f | rdt c f | rdl c f | rdh c f => cases f <;> rfl
  | ti c i | tdt c i | tdl c i | tdh c i => cases i <;> rfl
  | fmr | fm1r | fs1r | ffa1r | fa1r => rfl
  | fr1 b => simp [regAt, Reg.offset, show (0x240 + 8 * b) % 8 = 0 by omega]
  | fr2 b =>
    have hle : 0x240 ≤ 0x244 + 8 * b := by omega
    simp [regAt, Reg.offset, hle]

theorem offset_dvd (r : Reg) : r.offset % 4 = 0 := by
  cases r <;> simp only [Reg.offset] <;> omega

theorem offset_lt {r : Reg} (h : r.valid = true) : r.offset < 0x400 := by
  have hf (f : Fifo) : fifoNumber f ≤ 1 := by cases f <;> decide
  have hm (i : Mb) : mbNumber i ≤ 2 := by cases i <;> decide
  cases r <;> simp only [Reg.offset]
  case rf c f | ri c f | rdt c f | rdl c f | rdh c f => have := hf f; omega
  case ti c i | tdt c i | tdl c i | tdh c i => have := hm i; omega
  case fr1 b | fr2 b =>
    have : b < 28 := by simpa [Reg.valid, nBanks] using h
    omega
  all_goals omega

theorem canBase_dvd {g : Config} (h : g.valid = true) (c : Inst) : (canBase g c).toNat % 4 = 0 := by
  simp only [Config.valid, Bool.and_eq_true, decide_eq_true_eq] at h
  obtain ⟨⟨-, hp⟩, hs⟩ := h
  cases c
  · exact hp
  · exact hs

/-- Settles O15: an offset and a base are multiples of 4 and so is their sum modulo 2^32; the map of R21 gives back the
register of an offset. -/
theorem registerAddressesAreAlignedAndDistinct : Obligations.RegisterAddressesAreAlignedAndDistinct := by
  refine ⟨fun g r hg => ?_, fun r q _ _ hhome hoff => ?_, fun r => offset_lt⟩
  · have hbase := canBase_dvd hg r.home
    have hoff := offset_dvd r
    simp only [Reg.address, BitVec.toNat_add, BitVec.toNat_ofNat]
    omega
  · rw [← regAt_offset r, ← regAt_offset q, hhome, hoff]

/-! ## The words the registers show -/

/-- Settles O17: each flag has a bit of its own among those of R34, and the drawn bits are masked out there. -/
theorem tsrShowsTheMailboxFlags : Obligations.TsrShowsTheMailboxFlags := by
  intro s c junk
  refine ⟨_, rfl, fun i => ?_⟩
  cases i <;> simp [tsrWord, Mailbox.tsrBits, mbNumber, Ctrl.mb, tsrMask]

/-- `FMP` is the length of the queue (R35, R51). -/
theorem rfWord_fmp (q : RxFifo) (junk : Word) (h : q.queue.length ≤ 3) :
    ((q.word junk).extractLsb' 0 2).toNat = q.queue.length := by
  have hbits : (q.word junk).extractLsb' 0 2 = BitVec.ofNat 2 q.fmp := by
    ext i hi
    have hmask : (0x3F#32).getLsbD i = true := by
      obtain rfl | rfl : i = 0 ∨ i = 1 := by omega
      all_goals rfl
    have h3 : i ≠ 3 := by omega
    have h4 : i ≠ 4 := by omega
    have h32 : i < 32 := by omega
    simp only [RxFifo.word, BitVec.getElem_extractLsb', BitVec.getLsbD_or, BitVec.getLsbD_and, BitVec.getLsbD_not,
      flagBit_getLsbD, Nat.zero_add, hmask]
    simp [h3, h4, h32, hi]
  rw [hbits, RxFifo.fmp, BitVec.toNat_ofNat, Nat.mod_eq_of_lt (by omega)]

/-- Settles O18: `FMP` fits its two bits, and the flags stand at bits of their own. -/
theorem rfShowsTheFifoFlags : Obligations.RfShowsTheFifoFlags := by
  intro s c f junk hlen
  refine ⟨_, rfl, rfWord_fmp _ junk hlen, ?_⟩
  simp [RxFifo.word]

/-- The bits of `TI[i]` (R22). -/
theorem tiWord_getLsbD (t : TiReg) (i : Nat) :
    t.word.getLsbD i =
      if i < 1 then t.txrq else if i < 2 then t.rtr else if i < 3 then t.ide
      else if i < 21 then t.exid.getLsbD (i - 3) else t.stid.getLsbD (i - 21) := by
  show BitVec.getLsbD (t.stid ++ t.exid ++ BitVec.ofBool t.ide ++ BitVec.ofBool t.rtr ++ BitVec.ofBool t.txrq) i = _
  simp only [BitVec.getLsbD_append, BitVec.getLsbD_ofBool, Nat.sub_sub]
  grind

theorem tiWord_ofWord (w : Word) : (TiReg.ofWord w).word = w := by
  refine BitVec.eq_of_getLsbD_eq fun i hi => ?_
  rw [tiWord_getLsbD]
  simp only [TiReg.ofWord, BitVec.getLsbD_extractLsb']
  grind

theorem ofWord_tiWord (t : TiReg) : TiReg.ofWord t.word = t := by
  have hstid : t.word.extractLsb' 21 11 = t.stid := by
    ext i hi
    rw [BitVec.getElem_extractLsb', tiWord_getLsbD]
    grind
  have hexid : t.word.extractLsb' 3 18 = t.exid := by
    ext i hi
    rw [BitVec.getElem_extractLsb', tiWord_getLsbD]
    grind
  simp only [TiReg.ofWord, hstid, hexid, tiWord_getLsbD]
  rfl

/-- Settles O19: the fields lie side by side in the word, and between them they cover it. -/
theorem tiFieldsMakeUpTheWord : Obligations.TiFieldsMakeUpTheWord := ⟨tiWord_ofWord, ofWord_tiWord⟩

/-! ## The state after reset -/

/-- Settles O20, by evaluation of the reset state, register by register. -/
theorem resetStateShowsTheStatedValues : Obligations.ResetStateShowsTheStatedValues := by
  refine ⟨fun c => ?_, by decide, by decide, by decide, by decide, by decide⟩
  cases c <;>
    exact ⟨by decide, by decide, by decide, by decide, by decide, by decide, fun i => by cases i <;> rfl,
      fun f => by cases f <;> rfl, rfl, rfl⟩

/-- Settles O51, by evaluation of the reset state. -/
theorem resetStateMeetsTheInvariant : Obligations.ResetStateMeetsTheInvariant := by
  show State.reset.inv = true
  decide

end Sys2Proof.Machine
end

section
/-! SUPPORT. A register read leaves every register as it was: it records an access and draws a free value, and no register
shows either (R63, R75, R83). -/

namespace Sys2Proof.Machine

/-- The registers of an instance are the same, with the FIFO queues behind the window registers (R21, R51). -/
def Ctrl.sameRegisters (k l : Ctrl) : Prop :=
  l.mcr = k.mcr ∧ l.msr = k.msr ∧ l.btr = k.btr ∧ (∀ i, l.mb i = k.mb i) ∧ ∀ f, l.rf f = k.rf f

theorem Ctrl.sameRegisters.refl (k : Ctrl) : k.sameRegisters k := ⟨rfl, rfl, rfl, fun _ => rfl, fun _ => rfl⟩

/-- The access record is no register (R83). -/
theorem log_sameRegisters (k : Ctrl) (a : Access) : k.sameRegisters (k.log a) :=
  ⟨log_mcr k a, log_msr k a, log_btr k a, log_mb k a, log_rf k a⟩

theorem afterRead_sameRegisters (s : State) (c : Inst) (r : Reg) (d : Inst) :
    (s.ctrl d).sameRegisters ((s.afterRead c r).ctrl d) := by
  by_cases hd : d = c
  · subst hd
    rw [afterRead_ctrl]
    exact log_sameRegisters _ _
  · rw [afterRead_ctrl_ne s r hd]
    exact .refl _

/-- What a read shows depends on the registers of the instances and on the filter block alone, not on the sequencers, the
ports or the draws (R25, R34 to R48, R75). -/
theorem regView_of_sameRegisters {s t : State} (hctrl : ∀ d, (s.ctrl d).sameRegisters (t.ctrl d)) (hflt : t.flt = s.flt)
    (q : Reg) (junk : Word) : t.regView junk q = s.regView junk q := by
  cases q with
  | tsr c =>
    obtain ⟨-, -, -, hmb, -⟩ := hctrl c
    show some (tsrWord ((t.ctrl c).mb .m0) ((t.ctrl c).mb .m1) ((t.ctrl c).mb .m2) junk) = _
    rw [hmb, hmb, hmb]
    rfl
  | mcr c | msr c | btr c | rf c f | ti c i | tdt c i | tdl c i | tdh c i | ri c f | rdt c f | rdl c f | rdh c f =>
    obtain ⟨hmcr, hmsr, hbtr, hmb, hrf⟩ := hctrl c
    simp only [State.regView, hmcr, hmsr, hbtr, hmb, hrf]
  | fmr | fm1r | fs1r | ffa1r | fa1r | fr1 b | fr2 b => simp only [State.regView, hflt]

/-- Settles O16: the read hands on `State.afterRead`, which has the registers of the state it read. -/
theorem registerReadsHaveNoSideEffect : Obligations.RegisterReadsHaveNoSideEffect := by
  intro s t c r hread q junk
  obtain ⟨_, -, hnext⟩ := regRead_eq_next.1 hread
  obtain rfl : s.afterRead c r = t := Host.Outcome.next.inj hnext
  exact regView_of_sameRegisters (afterRead_sameRegisters s c r) (afterRead_flt s c r) q junk

end Sys2Proof.Machine
end

section
/-! SUPPORT. Command blocks word by word: each word that the encoder writes is told by its fields and its must-be-zero bits
(30_encoding.md R91 to R95, R106), and the payload words by their lanes (R101). -/

namespace Sys2Proof.Machine

/-! ## Fields -/

/-- A field of a word holds a value exactly when the bits of the word at the field's places are the value's. -/
theorem extractLsb'_eq_iff {w : Word} {start len : Nat} {v : BitVec len} :
    w.extractLsb' start len = v ↔ ∀ i, start ≤ i → i < start + len → w.getLsbD i = v.getLsbD (i - start) := by
  constructor
  · rintro rfl i hlo hhi
    simp [show i - start < len by omega, show start + (i - start) = i by omega]
  · intro h
    ext i hi
    rw [BitVec.getElem_extractLsb', h _ (by omega) (by omega), Nat.add_sub_cancel_left, BitVec.getLsbD_eq_getElem]

/-- Two halves side by side (R95). -/
theorem eq_append_iff {w : Word} {hi lo : BitVec 16} :
    w = hi ++ lo ↔ w.extractLsb' 16 16 = hi ∧ w.extractLsb' 0 16 = lo := by
  simp only [extractLsb'_eq_iff, BitVec.eq_of_getLsbD_eq_iff (y := hi ++ lo), BitVec.getLsbD_append]
  grind

/-! ## The header word (R91, R92) -/

theorem headerWord_getLsbD {opc : Nat} (h : opc < 16) (sel : Bool) (i : Nat) :
    (headerWord opc sel).getLsbD i = if i < 4 then opc.testBit i else if i = 4 then sel else false := by
  have hhigh (hi : 4 ≤ i) : opc.testBit i = false :=
    Nat.testBit_lt_two_pow (Nat.lt_of_lt_of_le (m := 2 ^ 4) h (Nat.pow_le_pow_right (by decide) hi))
  simp only [headerWord, BitVec.getLsbD_or, BitVec.getLsbD_ofNat, flagBit_getLsbD]
  grind

theorem eq_headerWord_iff {w : Word} {opc : Nat} {sel : Bool} (h : opc < 16) :
    w = headerWord opc sel ↔
      w.extractLsb' 0 4 = BitVec.ofNat 4 opc ∧ w.getLsbD 4 = sel ∧ w.extractLsb' 5 27 = 0 := by
  simp only [extractLsb'_eq_iff, BitVec.eq_of_getLsbD_eq_iff (y := headerWord opc sel), headerWord_getLsbD h,
    BitVec.getLsbD_ofNat]
  grind

/-! ## The words of `INIT` (R93) -/

theorem encodeInit_c1_getLsbD (op : InitOp) (i : Nat) :
    (encodeInit op).c1.getLsbD i =
      if i = 0 then op.loopback else if i = 1 then op.silent else if i = 2 then op.autoBusOff
      else if i = 3 then op.autoWakeup else if i = 4 then op.noAutoRetransmit else if i = 5 then op.rxFifoLock
      else if i = 6 then op.txFifoPriority else false := by
  simp only [encodeInit, BitVec.getLsbD_or, flagBit_getLsbD]
  grind

theorem eq_encodeInit_c1_iff {w : Word} {op : InitOp} :
    w = (encodeInit op).c1 ↔
      w.getLsbD 0 = op.loopback ∧ w.getLsbD 1 = op.silent ∧ w.getLsbD 2 = op.autoBusOff ∧
      w.getLsbD 3 = op.autoWakeup ∧ w.getLsbD 4 = op.noAutoRetransmit ∧ w.getLsbD 5 = op.rxFifoLock ∧
      w.getLsbD 6 = op.txFifoPriority ∧ w.extractLsb' 7 25 = 0 := by
  simp only [extractLsb'_eq_iff, BitVec.eq_of_getLsbD_eq_iff (y := (encodeInit op).c1), encodeInit_c1_getLsbD]
  grind

theorem encodeInit_c2_getLsbD (op : InitOp) (i : Nat) :
    (encodeInit op).c2.getLsbD i =
      if i < 11 then op.prescaler.getLsbD i else if i < 12 then false else if i < 15 then op.sjw.getLsbD (i - 12)
      else if i < 16 then false else if i < 21 then op.seg1.getLsbD (i - 16) else if i < 24 then false
      else op.seg2.getLsbD (i - 24) := by
  simp only [encodeInit, BitVec.getLsbD_or, BitVec.getLsbD_shiftLeft, BitVec.getLsbD_setWidth]
  grind

theorem eq_encodeInit_c2_iff {w : Word} {op : InitOp} :
    w = (encodeInit op).c2 ↔
      w.extractLsb' 0 11 = op.prescaler ∧ w.getLsbD 11 = false ∧ w.extractLsb' 12 3 = op.sjw ∧
      w.getLsbD 15 = false ∧ w.extractLsb' 16 5 = op.seg1 ∧ w.extractLsb' 21 3 = 0 ∧
      w.extractLsb' 24 4 = op.seg2 ∧ w.extractLsb' 28 4 = 0 := by
  simp only [extractLsb'_eq_iff, BitVec.eq_of_getLsbD_eq_iff (y := (encodeInit op).c2), encodeInit_c2_getLsbD]
  grind

/-! ## The words of `CFGFILT` (R95) -/

theorem encodeFilter_c1_getLsbD (op : FilterOp) (i : Nat) :
    (encodeFilter op).c1.getLsbD i =
      if i < 8 then op.bank.getLsbD i else if i = 8 then decide (op.fifo = .f1) else if i = 9 then decide (op.mode = .list)
      else if i = 10 then decide (op.scale = .s32) else if i = 11 then op.enable else false := by
  simp only [encodeFilter, BitVec.getLsbD_or, flagBit_getLsbD, BitVec.getLsbD_setWidth]
  grind

theorem eq_encodeFilter_c1_iff {w : Word} {op : FilterOp} :
    w = (encodeFilter op).c1 ↔
      w.extractLsb' 0 8 = op.bank ∧ w.getLsbD 8 = decide (op.fifo = .f1) ∧ w.getLsbD 9 = decide (op.mode = .list) ∧
      w.getLsbD 10 = decide (op.scale = .s32) ∧ w.getLsbD 11 = op.enable ∧ w.extractLsb' 12 20 = 0 := by
  simp only [extractLsb'_eq_iff, BitVec.eq_of_getLsbD_eq_iff (y := (encodeFilter op).c1), encodeFilter_c1_getLsbD]
  grind

theorem eq_encodeFilter_c2_iff {w : Word} {op : FilterOp} :
    w = (encodeFilter op).c2 ↔ w.extractLsb' 16 16 = op.idHigh ∧ w.extractLsb' 0 16 = op.idLow :=
  eq_append_iff

theorem eq_encodeFilter_c3_iff {w : Word} {op : FilterOp} :
    w = (encodeFilter op).c3 ↔ w.extractLsb' 16 16 = op.maskHigh ∧ w.extractLsb' 0 16 = op.maskLow :=
  eq_append_iff

/-! ## The words of a frame (R94) -/

theorem idWord_base_getLsbD (n : BitVec 11) (rtr : Bool) (i : Nat) :
    (idWord (.base n) rtr).getLsbD i = if i = 30 then rtr else n.getLsbD i := by
  simp only [idWord, BitVec.getLsbD_or, flagBit_getLsbD, BitVec.getLsbD_setWidth]
  grind

theorem idWord_ext_getLsbD (n : BitVec 29) (rtr : Bool) (i : Nat) :
    (idWord (.ext n) rtr).getLsbD i = if i = 31 then true else if i = 30 then rtr else n.getLsbD i := by
  simp only [idWord, BitVec.getLsbD_or, flagBit_getLsbD, BitVec.getLsbD_setWidth]
  grind

theorem wordId_eq_base {w : Word} {n : BitVec 11} :
    wordId w = some (.base n) ↔ w.getLsbD 31 = false ∧ w.extractLsb' 11 18 = 0 ∧ w.extractLsb' 0 11 = n := by
  unfold wordId
  split_ifs <;> simp_all

theorem wordId_eq_ext {w : Word} {n : BitVec 29} :
    wordId w = some (.ext n) ↔ w.getLsbD 31 = true ∧ w.extractLsb' 0 29 = n := by
  unfold wordId
  split_ifs <;> simp_all

/-- No word 1 is rejected but for a base number over 11 bits (R106 (c)). -/
theorem wordId_eq_none {w : Word} : wordId w = none ↔ w.getLsbD 31 = false ∧ w.extractLsb' 11 18 ≠ 0 := by
  unfold wordId
  split_ifs <;> simp_all

/-- Word 1 of a frame: bit 29, the remote tag, and an identifier that the decoder reads. -/
theorem eq_idWord_iff {w : Word} {id : Identifier} {rtr : Bool} :
    w = idWord id rtr ↔ w.getLsbD 29 = false ∧ w.getLsbD 30 = rtr ∧ wordId w = some id := by
  cases id with
  | base n =>
    simp only [wordId_eq_base, extractLsb'_eq_iff, BitVec.eq_of_getLsbD_eq_iff (y := idWord (.base n) rtr),
      idWord_base_getLsbD]
    grind
  | ext n =>
    simp only [wordId_eq_ext, extractLsb'_eq_iff, BitVec.eq_of_getLsbD_eq_iff (y := idWord (.ext n) rtr),
      idWord_ext_getLsbD]
    grind

/-- Word 2 of a Data Frame: the length, with bits [31:8] clear. -/
theorem eq_lenWord_iff {w : Word} {v : BitVec 8} :
    w = v.setWidth 32 ↔ w.extractLsb' 0 8 = v ∧ w.extractLsb' 8 24 = 0 := by
  simp only [extractLsb'_eq_iff, BitVec.eq_of_getLsbD_eq_iff (y := v.setWidth 32), BitVec.getLsbD_setWidth]
  grind

/-! ## The payload words (R94, R101) -/

/-- `LaneMask(m)` keeps the lanes below `m`. -/
theorem laneMask_getLsbD (m : Nat) {i : Nat} (hi : i < 32) : (laneMask m).getLsbD i = decide (i / 8 < m) := by
  match m with
  | 0 => simp [laneMask]
  | 1 | 2 | 3 => revert i; decide
  | m + 4 =>
    have hones : laneMask (m + 4) = BitVec.allOnes 32 := rfl
    rw [hones, BitVec.getLsbD_allOnes, decide_eq_true hi, decide_eq_true (by omega)]

/-- Bit `i` of a word is bit `i % 8` of its byte `i / 8` (R24). -/
theorem getLsbD_eq_lane (w : Word) (i : Nat) : w.getLsbD i = (w.extractLsb' (8 * (i / 8)) 8).getLsbD (i % 8) := by
  simp [Nat.mod_lt, Nat.div_add_mod]

/-- Byte `k` of a payload taken from two words. -/
theorem laneByte_laneBytes (lo hi : Word) (len : Nat) {k : Nat} (h : k < 8) :
    laneByte len ((laneBytes lo hi).take (min len maxPayload)) k = if k < len then (laneBytes lo hi).getD k 0 else 0 := by
  unfold laneByte
  split
  next hlen =>
    rw [List.getD_eq_getElem?_getD, List.getElem?_take_of_lt (Nat.lt_min.2 ⟨hlen, h⟩), List.getD_eq_getElem?_getD]
  next => rfl

/-- `PayloadLow` of a payload taken from two words is the low one with the lanes at or above the length cleared. -/
theorem payloadLow_laneBytes (lo hi : Word) (len : Nat) :
    payloadLow len ((laneBytes lo hi).take (min len maxPayload)) = lo &&& laneMask len := by
  refine BitVec.eq_of_getLsbD_eq fun i hlt => ?_
  have hk : i / 8 < 4 := by omega
  rw [getLsbD_eq_lane, payloadLow_lane _ _ _ hk, laneByte_laneBytes _ _ _ (by omega), laneBytes_getD _ _ _ (by omega),
    if_pos hk, BitVec.getLsbD_and, laneMask_getLsbD _ hlt, getLsbD_eq_lane lo]
  split <;> simp [*]

/-- `PayloadHigh` of a payload taken from two words is the high one, cleared in the same way. -/
theorem payloadHigh_laneBytes (lo hi : Word) (len : Nat) :
    payloadHigh len ((laneBytes lo hi).take (min len maxPayload)) = hi &&& laneMask (len - 4) := by
  refine BitVec.eq_of_getLsbD_eq fun i hlt => ?_
  have hk : i / 8 < 4 := by omega
  rw [getLsbD_eq_lane, payloadHigh_lane _ _ _ hk, laneByte_laneBytes _ _ _ (by omega), laneBytes_getD _ _ _ (by omega),
    if_neg (show ¬ i / 8 + 4 < 4 by omega), Nat.add_sub_cancel, BitVec.getLsbD_and, laneMask_getLsbD _ hlt,
    getLsbD_eq_lane hi]
  simp only [← Nat.lt_sub_iff_add_lt]
  split <;> simp [*]

/-- Byte `k` of the payload words of a payload. -/
theorem laneBytes_payload_getD (len : Nat) (bytes : List Byte) {k : Nat} (h : k < 8) :
    (laneBytes (payloadLow len bytes) (payloadHigh len bytes)).getD k 0 = laneByte len bytes k := by
  rw [laneBytes_getD _ _ _ h]
  split
  next hk => exact payloadLow_lane _ _ _ hk
  next hk => rw [payloadHigh_lane _ _ _ (by omega), Nat.sub_add_cancel (by omega)]

/-- A payload is read back from its words. -/
theorem take_laneBytes_payload {len : Nat} {bytes : List Byte} (h : bytes.length = min len maxPayload) :
    (laneBytes (payloadLow len bytes) (payloadHigh len bytes)).take (min len maxPayload) = bytes := by
  refine List.ext_getElem (by simp [h]) fun k _ hk => ?_
  obtain ⟨hlen, h8⟩ : k < len ∧ k < 8 := Nat.lt_min.1 (h ▸ hk)
  rw [List.getElem_take, ← List.getD_eq_getElem _ 0, laneBytes_payload_getD _ _ h8, laneByte, if_pos hlen,
    List.getD_eq_getElem _ _ hk]

end Sys2Proof.Machine
end

section
/-! SUPPORT. The decoder and the encoder of command blocks agree, and which blocks the decoder rejects (30_encoding.md R90 to
R96, R105, R106). -/

namespace Sys2Proof.Machine

/-! ## The operands of each command -/

/-- The decoder reads `INIT` from exactly the words that the encoder writes for it (R93). -/
theorem decodeInit_eq_ok {c1 c2 : Word} {i : Instr} :
    decodeInit c1 c2 = .ok i ↔ ∃ op, i = .init op ∧ c1 = (encodeInit op).c1 ∧ c2 = (encodeInit op).c2 := by
  simp only [eq_encodeInit_c1_iff, eq_encodeInit_c2_iff]
  unfold decodeInit
  constructor
  · intro h
    split_ifs at h
    cases h
    exact ⟨_, rfl, by simp_all⟩
  · rintro ⟨op, rfl, h⟩
    simp_all

/-- The decoder reads `CFGFILT` from exactly the words that the encoder writes for it (R95). -/
theorem decodeFilter_eq_ok {c1 c2 c3 : Word} {i : Instr} :
    decodeFilter c1 c2 c3 = .ok i ↔
      ∃ op, i = .cfgfilt op ∧ c1 = (encodeFilter op).c1 ∧ c2 = (encodeFilter op).c2 ∧ c3 = (encodeFilter op).c3 := by
  simp only [eq_encodeFilter_c1_iff, eq_encodeFilter_c2_iff, eq_encodeFilter_c3_iff]
  unfold decodeFilter
  constructor
  · intro h
    split at h
    · cases h
    · cases h
      exact ⟨_, rfl, by simp_all⟩
  · rintro ⟨⟨bank, fifo, mode, scale, enable, idHigh, idLow, maskHigh, maskLow⟩, rfl, h⟩
    cases fifo <;> cases mode <;> cases scale <;> simp_all

/-- The decoder reads a Remote Frame from word 1 alone, and a Data Frame from word 1, a length word and whatever the payload
words hold below the length (R94, R96; log 7). -/
theorem decodeTx_eq_ok {c1 c2 c3 c4 : Word} {i : Instr} :
    decodeTx c1 c2 c3 c4 = .ok i ↔
      (∃ id, i = .tx (.remote id) ∧ c1 = idWord id true) ∨
      ∃ id len, i = .tx (.data id len ((laneBytes c3 c4).take (min len maxPayload))) ∧ c1 = idWord id false ∧
        len < 256 ∧ c2 = (BitVec.ofNat 8 len).setWidth 32 := by
  simp only [eq_idWord_iff, eq_lenWord_iff]
  unfold decodeTx
  constructor
  · intro h
    split at h
    · cases h
    split at h
    · cases h
    split_ifs at h
    next hrtr => cases h; exact .inl ⟨_, rfl, by simp_all⟩
    next hrtr hmbz =>
      cases h
      exact .inr ⟨_, _, rfl, by simp_all, (c2.extractLsb' 0 8).isLt, by rw [BitVec.ofNat_toNat, BitVec.setWidth_eq],
        by simp_all⟩
  · rintro (⟨id, rfl, h29, h30, hid⟩ | ⟨id, len, rfl, ⟨h29, h30, hid⟩, hlen, hc2, hmbz⟩)
    · simp_all
    · have hn : (c2.extractLsb' 0 8).toNat = len := by rw [hc2, BitVec.toNat_ofNat, Nat.mod_eq_of_lt hlen]
      simp only [h29, h30, hid, hmbz, hn]
      simp

theorem decodeInit_eq_bad {c1 c2 : Word} :
    (∃ e, decodeInit c1 c2 = .bad e) ↔
      c1.extractLsb' 7 25 ≠ 0 ∨ c2.getLsbD 11 = true ∨ c2.getLsbD 15 = true ∨ c2.extractLsb' 21 3 ≠ 0 ∨
        c2.extractLsb' 28 4 ≠ 0 := by
  unfold decodeInit
  split_ifs <;> grind

theorem decodeFilter_eq_bad {c1 c2 c3 : Word} :
    (∃ e, decodeFilter c1 c2 c3 = .bad e) ↔ c1.extractLsb' 12 20 ≠ 0 := by
  unfold decodeFilter
  split <;> simp_all

theorem decodeTx_eq_bad {c1 c2 c3 c4 : Word} :
    (∃ e, decodeTx c1 c2 c3 c4 = .bad e) ↔
      c1.getLsbD 29 = true ∨ (c1.getLsbD 31 = false ∧ c1.extractLsb' 11 18 ≠ 0) ∨
        (c1.getLsbD 30 = false ∧ c2.extractLsb' 8 24 ≠ 0) := by
  rw [← wordId_eq_none]
  unfold decodeTx
  split
  · simp_all
  cases hid : wordId c1 with
  | none => simp_all
  | some id => dsimp only; split_ifs <;> simp_all

/-! ## The header -/

/-- An opcode is reserved or one of the four commands' (R92). -/
theorem opcode_cases (opc : BitVec 4) : (opc = 0 ∨ 5 ≤ opc.toNat) ∨ opc = 1 ∨ opc = 2 ∨ opc = 3 ∨ opc = 4 := by
  revert opc
  decide

theorem reserved_not_command {opc : BitVec 4} (h : opc = 0 ∨ 5 ≤ opc.toNat) :
    opc ≠ 1 ∧ opc ≠ 2 ∧ opc ≠ 3 ∧ opc ≠ 4 := by
  revert opc
  decide

section
variable {b : Block}

theorem decodeBlock_reserved (h : b.c0.extractLsb' 0 4 = 0 ∨ 5 ≤ (b.c0.extractLsb' 0 4).toNat) :
    decodeBlock b = .bad .reservedOpcode :=
  if_pos h

theorem decodeBlock_init (h : b.c0.extractLsb' 0 4 = 1) :
    decodeBlock b = if b.c0.extractLsb' 5 27 ≠ 0 then .bad .headerMbz
      else if b.c0.getLsbD 4 then .bad .selOutsideRx else decodeInit b.c1 b.c2 := by
  simp [decodeBlock, h]

theorem decodeBlock_filter (h : b.c0.extractLsb' 0 4 = 2) :
    decodeBlock b = if b.c0.extractLsb' 5 27 ≠ 0 then .bad .headerMbz
      else if b.c0.getLsbD 4 then .bad .selOutsideRx else decodeFilter b.c1 b.c2 b.c3 := by
  simp [decodeBlock, h]

theorem decodeBlock_tx (h : b.c0.extractLsb' 0 4 = 3) :
    decodeBlock b = if b.c0.extractLsb' 5 27 ≠ 0 then .bad .headerMbz
      else if b.c0.getLsbD 4 then .bad .selOutsideRx else decodeTx b.c1 b.c2 b.c3 b.c4 := by
  simp [decodeBlock, h]

theorem decodeBlock_rx (h : b.c0.extractLsb' 0 4 = 4) :
    decodeBlock b = if b.c0.extractLsb' 5 27 ≠ 0 then .bad .headerMbz
      else .ok (.rx (if b.c0.getLsbD 4 then .f1 else .f0)) := by
  simp [decodeBlock, h]

/-- The decoder reads an instruction from a block exactly when the header is its command's and its operand words are in order
(R91, R92). -/
theorem decodeBlock_eq_ok {i : Instr} :
    decodeBlock b = .ok i ↔
      (b.c0 = headerWord 1 false ∧ decodeInit b.c1 b.c2 = .ok i) ∨
      (b.c0 = headerWord 2 false ∧ decodeFilter b.c1 b.c2 b.c3 = .ok i) ∨
      (b.c0 = headerWord 3 false ∧ decodeTx b.c1 b.c2 b.c3 b.c4 = .ok i) ∨
      ∃ f, b.c0 = headerWord 4 (decide (f = .f1)) ∧ i = .rx f := by
  simp only [eq_headerWord_iff (by decide : 1 < 16), eq_headerWord_iff (by decide : 2 < 16),
    eq_headerWord_iff (by decide : 3 < 16), eq_headerWord_iff (by decide : 4 < 16)]
  obtain hopc | hopc | hopc | hopc | hopc := opcode_cases (b.c0.extractLsb' 0 4)
  · rw [decodeBlock_reserved hopc]
    have hnone := reserved_not_command hopc
    simp_all
  · rw [decodeBlock_init hopc]
    split_ifs <;> simp_all
  · rw [decodeBlock_filter hopc]
    split_ifs <;> simp_all
  · rw [decodeBlock_tx hopc]
    split_ifs <;> simp_all
  · rw [decodeBlock_rx hopc]
    constructor
    · intro h
      split at h <;> cases h
      cases hsel : b.c0.getLsbD 4 <;> simp_all
    · rintro (⟨⟨h, -⟩, -⟩ | ⟨⟨h, -⟩, -⟩ | ⟨⟨h, -⟩, -⟩ | ⟨f, ⟨-, hsel, hmbz⟩, rfl⟩)
      iterate 3 exact absurd (hopc.symm.trans h) (by decide)
      cases f <;> simp_all

end

/-! ## The statements about blocks -/

/-- Settles O1, by the instruction: the header that the encoder writes names the command, and the decoder reads the operands
from exactly the words that the encoder writes for them. -/
theorem decodeOfEncodedBlockIsTheInstruction : Obligations.DecodeOfEncodedBlockIsTheInstruction := by
  intro i hwf
  cases i with
  | init op => exact ⟨_, rfl, decodeBlock_eq_ok.2 (.inl ⟨rfl, decodeInit_eq_ok.2 ⟨op, rfl, rfl, rfl⟩⟩)⟩
  | cfgfilt op =>
    exact ⟨_, rfl, decodeBlock_eq_ok.2 (.inr (.inl ⟨rfl, decodeFilter_eq_ok.2 ⟨op, rfl, rfl, rfl, rfl⟩⟩))⟩
  | tx fr =>
    refine ⟨_, rfl, decodeBlock_eq_ok.2 (.inr (.inr (.inl ⟨rfl, decodeTx_eq_ok.2 ?_⟩)))⟩
    cases fr with
    | remote id => exact .inl ⟨id, rfl, rfl⟩
    | data id len bytes =>
      obtain ⟨hlen, hbytes⟩ : len < 256 ∧ bytes.length = min len maxPayload := by
        simpa [Instr.wellFormed, Frame.wellFormed] using hwf
      have hread := take_laneBytes_payload hbytes
      exact .inr ⟨id, len, congrArg (fun l => Instr.tx (.data id len l)) hread.symm, rfl, hlen, rfl⟩
  | rx f => exact ⟨_, rfl, decodeBlock_eq_ok.2 (.inr (.inr (.inr ⟨f, rfl, rfl⟩)))⟩
  | encode fr => cases hwf
  | decode ri rdt rdl rdh => cases hwf

/-- Settles O2, by the command that the header names: the decoder's conditions on the words are the encoder's equations, and
of the payload words it reads the lanes below the length. -/
theorem decodedBlockEncodesToTheSameWords : Obligations.DecodedBlockEncodesToTheSameWords := by
  intro b i h
  obtain ⟨h0, h⟩ | ⟨h0, h⟩ | ⟨h0, h⟩ | ⟨f, h0, rfl⟩ := decodeBlock_eq_ok.1 h
  · obtain ⟨op, rfl, h1, h2⟩ := decodeInit_eq_ok.1 h
    exact ⟨rfl, _, rfl, h0.symm, by simp [h1, h2]⟩
  · obtain ⟨op, rfl, h1, h2, h3⟩ := decodeFilter_eq_ok.1 h
    exact ⟨rfl, _, rfl, h0.symm, by simp [h1, h2, h3]⟩
  · obtain ⟨id, rfl, h1⟩ | ⟨id, len, rfl, h1, hlen, h2⟩ := decodeTx_eq_ok.1 h
    · exact ⟨rfl, _, rfl, h0.symm, by simp [encodeTx, frameWords, h1]⟩
    · refine ⟨by simp [Instr.wellFormed, Frame.wellFormed, hlen], _, rfl, h0.symm, ?_⟩
      simp [encodeTx, frameWords, h1, h2, payloadLow_laneBytes, payloadHigh_laneBytes]
  · exact ⟨rfl, _, rfl, h0.symm, by simp⟩

/-- Settles O3, by the opcode: under each command's opcode the decoder rejects for the header bits or for the operand words
of that command. -/
theorem blockIsRejectedExactlyWhenIllFormed : Obligations.BlockIsRejectedExactlyWhenIllFormed := by
  intro b
  rw [← decodeInit_eq_bad, ← decodeFilter_eq_bad (c2 := b.c2) (c3 := b.c3),
    ← decodeTx_eq_bad (c3 := b.c3) (c4 := b.c4)]
  obtain hopc | hopc | hopc | hopc | hopc := opcode_cases (b.c0.extractLsb' 0 4)
  · simp only [decodeBlock_reserved hopc]
    exact ⟨fun _ => hopc.imp_right .inl, fun _ => ⟨_, rfl⟩⟩
  · rw [decodeBlock_init hopc]
    split_ifs <;> simp_all
  · rw [decodeBlock_filter hopc]
    split_ifs <;> simp_all
  · rw [decodeBlock_tx hopc]
    split_ifs <;> simp_all
  · rw [decodeBlock_rx hopc]
    split_ifs <;> simp_all

/-- Settles O4, by evaluation of the decoder on the five blocks. -/
theorem writtenOutBlocksDecode : Obligations.WrittenOutBlocksDecode := by
  unfold Obligations.WrittenOutBlocksDecode
  decide

end Sys2Proof.Machine
end

section
/-! SUPPORT. The response of `RX` as words of the window (30_encoding.md R99, 40_codec.md R126, R128). -/

namespace Sys2Proof.Machine

/-- Word 1 made from an identifier register (R94, R126): the tags, and the identifier right-aligned. -/
theorem idWord_imageId (ri : Word) (rtr : Bool) :
    (idWord (imageId ri) rtr).getLsbD 31 = ri.getLsbD 2 ∧ (idWord (imageId ri) rtr).getLsbD 30 = rtr ∧
    (idWord (imageId ri) rtr).getLsbD 29 = false ∧
    (ri.getLsbD 2 = true → (idWord (imageId ri) rtr).extractLsb' 0 29 = ri.extractLsb' 3 29) ∧
    (ri.getLsbD 2 = false → (idWord (imageId ri) rtr).extractLsb' 0 29 = (ri.extractLsb' 21 11).setWidth 29) := by
  unfold imageId
  split
  next hide =>
    simp only [extractLsb'_eq_iff, idWord_ext_getLsbD, BitVec.getLsbD_extractLsb']
    grind
  next hide =>
    simp only [extractLsb'_eq_iff, idWord_base_getLsbD, BitVec.getLsbD_setWidth, BitVec.getLsbD_extractLsb']
    grind

/-- The length word that the response of a Data Frame holds (R94, R127). -/
theorem lenWord_toNat (dlc : BitVec 4) : (BitVec.ofNat 8 dlc.toNat).setWidth 32 = dlc.setWidth 32 := by
  rw [BitVec.ofNat_toNat, BitVec.setWidth_setWidth (by decide)]

/-- Settles O44, by the two answers of `DECODE`: `S1` is word 1 of the identifier read, and the payload words of the bytes
read are the window's with the lanes at or above the length cleared. -/
theorem rxResponseIsCanonical : Obligations.RxResponseIsCanonical := by
  intro ri rdt rdl rdh fr h
  obtain ⟨hrtr, rfl⟩ | ⟨hrtr, hlen, rfl⟩ := decodeFrame_eq_some h
  · obtain ⟨h31, h30, h29, hext, hbase⟩ := idWord_imageId ri true
    exact ⟨rfl, h31, h30.trans hrtr.symm, h29, hext, hbase, fun _ => ⟨rfl, rfl, rfl⟩,
      fun hdata => absurd (hrtr.symm.trans hdata) (by decide)⟩
  · obtain ⟨h31, h30, h29, hext, hbase⟩ := idWord_imageId ri false
    have hlow := payloadLow_laneBytes rdl rdh (rdt.extractLsb' 0 4).toNat
    have hhigh := payloadHigh_laneBytes rdl rdh (rdt.extractLsb' 0 4).toNat
    rw [Nat.min_eq_left hlen] at hlow hhigh
    exact ⟨rfl, h31, h30.trans hrtr.symm, h29, hext, hbase,
      fun hremote => absurd (hrtr.symm.trans hremote) (by decide), fun _ => ⟨lenWord_toNat _, hlow, hhigh⟩⟩

end Sys2Proof.Machine
end

section
/-! SUPPORT. What becomes of the block at the port of a served, idle instance (30_encoding.md R90, R91, R105, R106). -/

namespace Sys2Proof.Machine

section
variable {s : State} {b : Block} (hv : s.cfg.valid = true) (hp : s.present s.active = true) (hb : s.busy s.active = false)
  (hc : (s.ctrl s.active).cmd = some b)
include hv hp hb hc

theorem step_of_decode_ok {i : Instr} (h : decodeBlock b = .ok i) : step s = exec i s := by
  simp [step, hv, hp, hb, hc, h]

theorem step_of_decode_bad {e : DecodeError} (h : decodeBlock b = .bad e) :
    step s = .next (s.upd s.active (·.illegal)) := by
  simp [step, hv, hp, hb, hc, h]

end

/-- Settles O5: the step's own tests all pass, and the decoder's answer is what is run. -/
theorem stepRunsTheDecodedCommand : Obligations.StepRunsTheDecodedCommand :=
  fun _ _ _ hv hp hb hc h => step_of_decode_ok hv hp hb hc h

/-- Settles O7: a rejection is `Ctrl.illegal`. -/
theorem illFormedBlockAnswersIllegalCommand : Obligations.IllFormedBlockAnswersIllegalCommand :=
  fun _ _ _ hv hp hb hc h => step_of_decode_bad hv hp hb hc h

/-- Settles O6: the decoder looks at the opcode first, so such a block is rejected whatever else it holds. -/
theorem reservedOpcodeAnswersIllegalCommand : Obligations.ReservedOpcodeAnswersIllegalCommand :=
  fun _ _ hv hp hb hc h => step_of_decode_bad hv hp hb hc (decodeBlock_reserved h)

/-- A change of an instance counts by what it makes of that instance as it is. -/
theorem upd_congr {s : State} {c : Inst} {g h : Ctrl → Ctrl} (he : g (s.ctrl c) = h (s.ctrl c)) :
    s.upd c g = s.upd c h := by
  cases c with
  | primary => exact congrArg ({ s with primary := · }) he
  | secondary => exact congrArg ({ s with secondary := · }) he

theorem issue_uninited {k : Ctrl} {ph : Phase} (hn : ph.needsInit = true) (hi : k.seq.inited = false) :
    k.issue ph = k.illegal := by
  simp [Ctrl.issue, hn, hi]

/-- A command that needs an initialised instance is rejected at its issue, and its run is over (R58, R106 (d)). -/
theorem runCommand_uninited {s : State} {c : Inst} {ph : Phase} (h : s.idleAt c = true)
    (hi : (s.ctrl c).seq.inited = false) (hn : ph.needsInit = true) :
    runCommand ph s = .next (s.upd c (·.illegal)) := by
  have hissue : (s.upd c fun k => k.issue ph) = s.upd c (·.illegal) := upd_congr (issue_uninited hn hi)
  have hidle : (s.upd c (·.illegal)).busy c = false := by
    simp only [State.idleAt, Bool.and_eq_true, Bool.not_eq_true'] at h
    rw [State.busy_def, ctrl_upd_same]
    exact h.2
  rw [runCommand_idle ph h, hissue, ← runTurns_idle hidle, upd_env]

/-- Settles O8: each of the three commands needs an initialised instance. -/
theorem commandBeforeInitAnswersIllegalCommand : Obligations.CommandBeforeInitAnswersIllegalCommand := by
  intro s c i h hi hcmd
  obtain ⟨op, rfl⟩ | ⟨fr, rfl⟩ | ⟨f, rfl⟩ := hcmd <;> exact runCommand_uninited h hi rfl

end Sys2Proof.Machine
end

section
/-! SUPPORT. The codec: what `ENCODE` writes, what `DECODE` reads and what it does not look at (40_codec.md R120 to R131), and
what it makes of the image BUS stores (45_bus_engine.md R234). -/

namespace Sys2Proof.Machine

/-! ## Identifier registers (R121, R126) -/

theorem idImage_base_fields (n : BitVec 11) (rtr : Bool) :
    (idImage (.base n) rtr).extractLsb' 21 11 = n ∧ (idImage (.base n) rtr).extractLsb' 3 18 = 0 ∧
    (idImage (.base n) rtr).getLsbD 2 = false := by
  simp only [extractLsb'_eq_iff, idImage_base_getLsbD]
  grind

theorem idImage_ext_fields (n : BitVec 29) (rtr : Bool) :
    (idImage (.ext n) rtr).extractLsb' 3 29 = n ∧ (idImage (.ext n) rtr).getLsbD 2 = true := by
  simp only [extractLsb'_eq_iff, idImage_ext_getLsbD]
  grind

/-- The fields of an image, by the variant of its identifier. -/
theorem idImage_fields (id : Identifier) (rtr : Bool) :
    (∀ n, id = .base n → (idImage id rtr).extractLsb' 21 11 = n ∧ (idImage id rtr).extractLsb' 3 18 = 0 ∧
      (idImage id rtr).getLsbD 2 = false) ∧
    (∀ n, id = .ext n → (idImage id rtr).extractLsb' 3 29 = n ∧ (idImage id rtr).getLsbD 2 = true) := by
  constructor
  · rintro n rfl; exact idImage_base_fields n rtr
  · rintro n rfl; exact idImage_ext_fields n rtr

/-- The image that `ENCODE` writes is the one with bit 0 left at 0 (R121). -/
theorem idImage_or_flagBit_false (id : Identifier) (rtr : Bool) : idImage id rtr ||| flagBit 0 false = idImage id rtr :=
  BitVec.or_zero

theorem idImage_bit1 (id : Identifier) (rtr : Bool) : (idImage id rtr).getLsbD 1 = rtr := by
  rw [← idImage_or_flagBit_false, idImage_rtr]

theorem imageId_of_idImage (id : Identifier) (rtr : Bool) : imageId (idImage id rtr) = id := by
  rw [← idImage_or_flagBit_false, imageId_idImage]

theorem imageId_of_ide {ri : Word} (h : ri.getLsbD 2 = true) : imageId ri = .ext (ri.extractLsb' 3 29) :=
  if_pos h

theorem imageId_of_not_ide {ri : Word} (h : ri.getLsbD 2 = false) : imageId ri = .base (ri.extractLsb' 21 11) := by
  unfold imageId
  rw [h]
  exact if_neg (by decide)

/-- The 29 bits of an extended identifier are the 11 of a base one and the 18 below them. -/
theorem extId_eq_append (ri : Word) : ri.extractLsb' 3 29 = ri.extractLsb' 21 11 ++ ri.extractLsb' 3 18 :=
  (BitVec.extractLsb'_append_extractLsb'_eq_extractLsb' (start₁ := 3) (len₁ := 18) (start₂ := 21) (len₂ := 11) rfl).symm

/-- The identifier is read from bit 2 and the bits of its variant (R131). -/
theorem imageId_congr {ri ri' : Word} (hide : ri.getLsbD 2 = ri'.getLsbD 2)
    (hbase : ri.extractLsb' 21 11 = ri'.extractLsb' 21 11)
    (hext : ri.getLsbD 2 = true → ri.extractLsb' 3 18 = ri'.extractLsb' 3 18) : imageId ri = imageId ri' := by
  cases h : ri.getLsbD 2 with
  | false => rw [imageId_of_not_ide h, imageId_of_not_ide (hide.symm.trans h), hbase]
  | true => rw [imageId_of_ide h, imageId_of_ide (hide.symm.trans h), extId_eq_append, extId_eq_append, hbase, hext h]

/-! ## Payload lanes (R128, R131) -/

/-- The lanes at or above the length are not read: clearing them changes no byte. -/
theorem take_laneBytes_masked (lo hi : Word) (len : Nat) :
    (laneBytes (lo &&& laneMask len) (hi &&& laneMask (len - 4))).take (min len maxPayload) =
      (laneBytes lo hi).take (min len maxPayload) := by
  rw [← payloadLow_laneBytes lo hi, ← payloadHigh_laneBytes lo hi]
  exact take_laneBytes_payload (by simp [maxPayload])

theorem take_laneBytes_congr {lo lo' hi hi' : Word} {len : Nat} (hlen : len ≤ maxPayload)
    (hlo : lo &&& laneMask len = lo' &&& laneMask len) (hhi : hi &&& laneMask (len - 4) = hi' &&& laneMask (len - 4)) :
    (laneBytes lo hi).take len = (laneBytes lo' hi').take len := by
  have h := take_laneBytes_masked lo hi len
  rw [hlo, hhi, take_laneBytes_masked, Nat.min_eq_left hlen] at h
  exact h.symm

theorem take_laneBytes_getD (lo hi : Word) {len k : Nat} (hlen : len ≤ maxPayload) (hk : k < len) :
    ((laneBytes lo hi).take len).getD k 0 = if k < 4 then lo.extractLsb' (8 * k) 8 else hi.extractLsb' (8 * (k - 4)) 8 := by
  rw [List.getD_eq_getElem?_getD, List.getElem?_take_of_lt hk, ← List.getD_eq_getElem?_getD]
  exact laneBytes_getD lo hi k (Nat.lt_of_lt_of_le hk hlen)

/-! ## The two functions, case by case -/

theorem exec_encode (fr : Frame) (s : State) :
    exec (.encode fr) s = .next { s with codec := some (.encoded (encodeFrame fr)) } := rfl

theorem exec_decode (ri rdt rdl rdh : Word) (s : State) :
    exec (.decode ri rdt rdl rdh) s = .next { s with codec := some (.decoded (decodeFrame ri rdt rdl rdh)) } := rfl

theorem encodeFrame_data {len : Nat} (h : len ≤ 8) (id : Identifier) (bytes : List Byte) :
    encodeFrame (.data id len bytes) =
      some ⟨idImage id false, BitVec.ofNat 4 len, true, payloadLow len bytes, payloadHigh len bytes⟩ :=
  if_neg (Nat.not_lt.2 h)

theorem encodeFrame_long {len : Nat} (h : 8 < len) (id : Identifier) (bytes : List Byte) :
    encodeFrame (.data id len bytes) = none :=
  if_pos h

theorem dlc_toNat {len : Nat} (h : len ≤ 8) : (BitVec.ofNat 4 len).toNat = len := by
  rw [BitVec.toNat_ofNat, Nat.mod_eq_of_lt (Nat.lt_of_le_of_lt h (by decide))]

section
variable {ri rdt : Word} (rdl rdh : Word)

theorem decodeFrame_remote (rdt : Word) (h : ri.getLsbD 1 = true) :
    decodeFrame ri rdt rdl rdh = some (.remote (imageId ri)) :=
  if_pos h

theorem decodeFrame_long (h : ri.getLsbD 1 = false) (hlen : 8 < (rdt.extractLsb' 0 4).toNat) :
    decodeFrame ri rdt rdl rdh = none := by
  simp only [decodeFrame, h, hlen]
  simp

theorem decodeFrame_data (h : ri.getLsbD 1 = false) (hlen : (rdt.extractLsb' 0 4).toNat ≤ 8) :
    decodeFrame ri rdt rdl rdh =
      some (.data (imageId ri) (rdt.extractLsb' 0 4).toNat ((laneBytes rdl rdh).take (rdt.extractLsb' 0 4).toNat)) := by
  simp only [decodeFrame, h, Nat.not_lt.2 hlen]
  simp

end

/-! ## The statements about the codec -/

/-- Settles O13, by the kind of the frame: the identifier is read back from its image, and the bytes from the payload words
that hold them. -/
theorem codecRoundTrip : Obligations.CodecRoundTrip := by
  intro fr img rdt rdl rdh hwf henc hdlc hdata
  obtain ⟨id, len, bytes, rfl, hlen, rfl⟩ | ⟨id, rfl, rfl⟩ := encodeFrame_eq_some henc
  · obtain ⟨rfl, rfl⟩ := hdata rfl
    obtain ⟨-, hbytes⟩ : len < 256 ∧ bytes.length = min len maxPayload := by simpa [Frame.wellFormed] using hwf
    have hn : (rdt.extractLsb' 0 4).toNat = len := by rw [hdlc]; exact dlc_toNat hlen
    have hread := take_laneBytes_payload hbytes
    rw [Nat.min_eq_left hlen] at hread
    rw [decodeFrame_data _ _ (idImage_bit1 id false) (hn.trans_le hlen), hn, hread, imageId_of_idImage]
  · rw [decodeFrame_remote _ _ _ (idImage_bit1 id true), imageId_of_idImage]

/-- Settles O14, by the kind and the length: a Remote Frame is its identifier, a Data Frame also has the bytes of the lanes
below its length, and a longer one is rejected on both windows. -/
theorem decodeIgnoresTheUnusedBits : Obligations.DecodeIgnoresTheUnusedBits := by
  intro ri ri' rdt rdt' rdl rdl' rdh rdh' hrtr hide hbase hext hdata
  have hid := imageId_congr hide hbase hext
  cases h : ri.getLsbD 1 with
  | true => rw [decodeFrame_remote _ _ _ h, decodeFrame_remote _ _ _ (hrtr.symm.trans h), hid]
  | false =>
    have h' := hrtr.symm.trans h
    obtain ⟨hlen, hlo, hhi⟩ := hdata h
    obtain h8 | h8 := Nat.lt_or_ge 8 (rdt.extractLsb' 0 4).toNat
    · rw [decodeFrame_long _ _ h h8, decodeFrame_long _ _ h' (hlen ▸ h8)]
    · rw [decodeFrame_data _ _ h h8, decodeFrame_data _ _ h' (hlen ▸ h8), hid, ← hlen, take_laneBytes_congr h8 hlo hhi]

/-- Settles O9: `ti` is the image of the identifier with the frame's remote tag. -/
theorem encodeWritesTheIdentifierFields : Obligations.EncodeWritesTheIdentifierFields := by
  intro fr img henc
  obtain ⟨id, len, bytes, rfl, -, rfl⟩ | ⟨id, rfl, rfl⟩ := encodeFrame_eq_some henc
  · refine ⟨idImage_bit0 id false, ?_, fun _ h => nomatch h⟩
    rintro _ _ _ ⟨⟩
    exact ⟨idImage_bit1 id false, idImage_fields id false⟩
  · refine ⟨idImage_bit0 id true, fun _ _ _ h => (nomatch h), ?_⟩
    rintro _ ⟨⟩
    exact ⟨idImage_bit1 id true, idImage_fields id true⟩

/-- Settles O10: the payload words hold each byte in its lane. -/
theorem encodeOfDataFrameCompletes : Obligations.EncodeOfDataFrameCompletes := by
  intro s id len bytes hlen
  refine ⟨_, by rw [exec_encode, encodeFrame_data hlen], dlc_toNat hlen, rfl, fun k hk => ?_⟩
  exact ⟨payloadLow_lane len bytes k hk, payloadHigh_lane len bytes k hk⟩

/-- Settles O11, by the kind of the frame. -/
theorem encodeOfRemoteAndLongFramesCompletes : Obligations.EncodeOfRemoteAndLongFramesCompletes :=
  ⟨fun _ _ => ⟨_, rfl, rfl, rfl⟩, fun s id len bytes hlen => by rw [exec_encode, encodeFrame_long hlen]⟩

/-- Settles O12, with the identifier that every identifier register holds: the three answers of `DECODE` are told by `ri[1]`
and the length. -/
theorem decodeOfEveryWindowCompletes : Obligations.DecodeOfEveryWindowCompletes := by
  intro s ri rdt rdl rdh
  refine ⟨_, exec_decode ri rdt rdl rdh s, imageId ri, imageId_of_ide, imageId_of_not_ide,
    decodeFrame_remote _ _ _, decodeFrame_long _ _, fun h hlen => ?_⟩
  exact ⟨_, decodeFrame_data _ _ h hlen, List.length_take_of_le hlen, fun k hk => take_laneBytes_getD _ _ hlen hk⟩

/-! ## What BUS stores of a sent frame (R234) -/

theorem encodeFrame_data_ti {id : Identifier} {len : Nat} {bytes : List Byte} {img : Image}
    (henc : encodeFrame (.data id len bytes) = some img) : img.ti = idImage id false := by
  obtain ⟨_, _, _, ⟨⟩, -, rfl⟩ | ⟨_, ⟨⟩, -⟩ := encodeFrame_eq_some henc
  rfl

/-- Above bit 0 the stored identifier register is the frame's image. -/
theorem storedImage_ri_getLsbD (fr : BusFrame) (junk : Junk) {i : Nat} (hi : 0 < i) :
    (storedImage fr junk).ri.getLsbD i = (idImage fr.id fr.rtr).getLsbD i := by
  show (idImage fr.id fr.rtr ||| flagBit 0 junk.ri0).getLsbD i = _
  rw [BitVec.getLsbD_or, flagBit_getLsbD]
  simp [Nat.pos_iff_ne_zero.1 hi]

theorem storedImage_ri_extractLsb' (fr : BusFrame) (junk : Junk) {start : Nat} (len : Nat) (h : 0 < start) :
    (storedImage fr junk).ri.extractLsb' start len = (idImage fr.id fr.rtr).extractLsb' start len := by
  ext i hi
  rw [BitVec.getElem_extractLsb', BitVec.getElem_extractLsb', storedImage_ri_getLsbD fr junk (by omega)]

theorem storedImage_dlc (fr : BusFrame) (junk : Junk) : (storedImage fr junk).rdt.extractLsb' 0 4 = fr.dlc := by
  show (junk.rdt ++ fr.dlc : Word).extractLsb' 0 4 = fr.dlc
  simp only [extractLsb'_eq_iff, BitVec.getLsbD_append]
  grind

theorem storedImage_rdl {fr : BusFrame} (junk : Junk) (h : fr.rtr = false) :
    (storedImage fr junk).rdl = fr.lo &&& laneMask fr.dlc.toNat ||| junk.lo &&& ~~~laneMask fr.dlc.toNat := by
  simp [storedImage, h]

theorem storedImage_rdh {fr : BusFrame} (junk : Junk) (h : fr.rtr = false) :
    (storedImage fr junk).rdh = fr.hi &&& laneMask (fr.dlc.toNat - 4) ||| junk.hi &&& ~~~laneMask (fr.dlc.toNat - 4) := by
  simp [storedImage, h]

/-- Two words put together by a mask: under the mask the first one shows. -/
theorem merge_and_mask (w j m : Word) : ((w &&& m) ||| (j &&& ~~~m)) &&& m = w &&& m := by
  ext i hi
  simp only [BitVec.getElem_and, BitVec.getElem_or, BitVec.getElem_not]
  grind

/-- `DECODE` reads from a stored image what it reads from the frame's own words: what comes from `junk` is what it does not
look at (R131, R234). -/
theorem decodeFrame_storedImage (fr : BusFrame) (junk : Junk) :
    decodeFrame (storedImage fr junk).ri (storedImage fr junk).rdt (storedImage fr junk).rdl (storedImage fr junk).rdh =
      decodeFrame (idImage fr.id fr.rtr) (storedImage fr junk).rdt fr.lo fr.hi := by
  have hbit {i : Nat} := storedImage_ri_getLsbD fr junk (i := i)
  have hfield {start : Nat} (len : Nat) (h : 0 < start) := storedImage_ri_extractLsb' fr junk len h
  refine decodeIgnoresTheUnusedBits _ _ _ _ _ _ _ _ (hbit (by decide)) (hbit (by decide)) (hfield 11 (by decide))
    (fun _ => hfield 18 (by decide)) fun hdata => ?_
  have hrtr : fr.rtr = false := by rw [← idImage_bit1 fr.id fr.rtr, ← hbit (by decide), hdata]
  rw [storedImage_dlc, storedImage_rdl junk hrtr, storedImage_rdh junk hrtr]
  exact ⟨rfl, merge_and_mask _ _ _, merge_and_mask _ _ _⟩

/-- Settles O49: the stored image is a window that `DECODE` reads as the image `ENCODE` gave, and the symmetry law (R130) is
about every such window. -/
theorem sentFrameDecodesToItself : Obligations.SentFrameDecodesToItself := by
  intro fr img id rtr lo hi junk hwf henc hkind e
  refine (decodeFrame_storedImage ⟨id, rtr, img.dlc, lo, hi⟩ junk).trans ?_
  have hdlc := storedImage_dlc ⟨id, rtr, img.dlc, lo, hi⟩ junk
  obtain ⟨⟨len, bytes, rfl⟩, rfl, rfl, rfl⟩ | ⟨rfl, rfl⟩ := hkind
  · rw [← encodeFrame_data_ti henc]
    exact codecRoundTrip _ _ _ _ _ hwf henc hdlc fun _ => ⟨rfl, rfl⟩
  · cases henc
    exact codecRoundTrip _ _ _ _ _ hwf rfl hdlc (fun h => nomatch h)

end Sys2Proof.Machine
end

section
/-! SUPPORT. How a run of a command goes along the turns that are left (20_memory.md R78), and what one step of `TX` does, said
once (41_transmit.md R141 to R149). -/

namespace Sys2Proof.Machine

/-! ## Runs along the remaining turns -/

/-- A property of a state and the turns still to come that the command's own moves and those of BUS carry on: a quiet run has
it at its end. An own move is made when it is next in the list, or when the list is used up. -/
theorem runTurns_follows {Q : List Turn → State → Prop} {c : Inst}
    (hseq : ∀ ts s, Q ts s → s.busy c = true → (∀ x ∈ ts.head?, x = .seq c) → ∃ t, seqStep c s = .next t ∧ Q ts.tail t)
    (hbus : ∀ d e ts s, Q (.bus d e :: ts) s → s.busy c = true → Q ts ((busStep d e s).getD s))
    (henv : ∀ ts s e, Q ts s → Q ts { s with env := e }) :
    ∀ ts s, Q ts s → (ts.all fun x => x.ownOrBus c && s.present x.inst) = true →
      ∃ t ts', runTurns c ts s = .next t ∧ Q ts' t ∧ (t.busy c = false ∨ t.waiting c = true) := by
  intro ts
  induction ts with
  | nil =>
    intro s hq _
    obtain ⟨t, ht, hqt⟩ :=
      runAlone_reaches (P := Q []) (fun u hu hb => hseq [] u hu hb (by simp)) s.fuel _ (henv [] s [] hq)
    exact ⟨t, [], ht, hqt, runTurns_ends [] s t ht⟩
  | cons x ts ih =>
    intro s hq hquiet
    simp only [List.all_cons, Bool.and_eq_true] at hquiet
    obtain ⟨⟨hown, hpres⟩, hrest⟩ := hquiet
    by_cases hb : s.busy c = true
    · have hbe : ({ s with env := ts } : State).busy c = true := by simpa [State.busy_def] using hb
      have hmove : ∃ m, turn x { s with env := ts } = .next m ∧ Q ts m := by
        simp only [turn, present_withEnv, hpres, if_true]
        cases x with
        | host d b => simp [Turn.ownOrBus] at hown
        | seq d =>
          obtain rfl : d = c := by simpa [Turn.ownOrBus] using hown
          exact hseq _ _ (henv _ s ts hq) hbe (by simp)
        | bus d e => exact ⟨_, rfl, hbus d e ts _ (henv _ s ts hq) hbe⟩
      obtain ⟨m, hm, hqm⟩ := hmove
      have hcfg : m.cfg = s.cfg := (turn_frame hm).1
      have hpr (d : Inst) : m.present d = s.present d := by cases d <;> simp [State.present, hcfg]
      obtain ⟨t, ts', ht, hqt⟩ := ih m hqm (by simpa [hpr] using hrest)
      exact ⟨t, ts', by simp [runTurns, hb, hm, ht], hqt⟩
    · exact ⟨{ s with env := x :: ts }, x :: ts, by simp [runTurns, hb], henv _ s _ hq,
        .inl (by simpa [State.busy_def] using hb)⟩

/-- A `TX` issued at an initialised instance begins at T1 (R57, R141). -/
theorem exec_tx {s : State} {c : Inst} (fr : Frame) (h : s.canIssue c = true) :
    exec (.tx fr) s = runTurns c s.env (s.upd c (·.start (.tx fr .t1))) := by
  simp only [State.canIssue, Bool.and_eq_true] at h
  obtain ⟨hidle, hinit⟩ := h
  have hissue : (s.upd c fun k => k.issue (.tx fr .t1)) = s.upd c (·.start (.tx fr .t1)) :=
    upd_congr (issue_inited _ hinit)
  rw [← hissue]
  exact runCommand_idle _ hidle

/-- A running `TX` neither has ended nor waits (R251). -/
theorem tx_goes_on {s : State} {c : Inst} {fr : Frame} {a : TxStep} (hp : (s.ctrl c).seq.phase = .tx fr a) :
    ¬ (s.busy c = false ∨ s.waiting c = true) := by
  simp [State.busy_def, State.waiting, Seq.busy, hp]

/-! ## One step of `TX` -/

/-- What a step of `TX` writes to the selected mailbox (R141). -/
def TxStep.write : TxStep → Mailbox → Mailbox
  | .t3 img, m => { m with ti := TiReg.ofWord img.ti }
  | .t4 img, m => { m with dlc := img.dlc }
  | .t5a img, m => { m with tdl := img.tdl }
  | .t5b img, m => { m with tdh := img.tdh }
  | .t6, m => { m with tgt := false }
  | .t7, m => m.request
  | .t9, m => m.abort
  | .t1, m | .t2, m | .t8, m => m

/-- The access that a step of `TX` makes, with `i` the selected mailbox (R83, R141); T2 makes none. -/
def TxStep.accesses (c : Inst) (i : Mb) : TxStep → List Access
  | .t1 | .t8 => [.R (.tsr c)]
  | .t2 => []
  | .t3 _ => [.W (.ti c i)]
  | .t4 _ => [.F (.tdt c i) [.dlc]]
  | .t5a _ => [.W (.tdl c i)]
  | .t5b _ => [.W (.tdh c i)]
  | .t6 => [.F (.tdt c i) [.tgt]]
  | .t7 => [.F (.ti c i) [.txrq]]
  | .t9 => [.F (.tsr c) [.abrq i]]

/-- The tick counter after a step (R148, R256). -/
def TxStep.count : TxStep → Nat → Nat
  | .t7, _ => 0
  | .t8, n => n + 1
  | _, n => n

/-- Where a step of `TX` leads (R141): to the end of the command with a status, or to the next step. -/
def Ctrl.txNext (k : Ctrl) (budget : Nat) (fr : Frame) : TxStep → Except Status TxStep
  | .t1 => if k.firstEmpty = none then .error .bufferExhausted else .ok .t2
  | .t2 =>
    match encodeFrame fr with
    | none => .error .invalidFrame
    | some img => .ok (.t3 img)
  | .t3 img => .ok (.t4 img)
  | .t4 img => .ok (if img.hasData then .t5a img else .t6)
  | .t5a img => .ok (.t5b img)
  | .t5b _ => .ok .t6
  | .t6 => .ok .t7
  | .t7 => .ok .t8
  | .t8 => if (k.mb k.seq.sel).done then .error .ok else if k.seq.tick + 1 < budget then .ok .t8 else .ok .t9
  | .t9 => .error .timeout

/-- The controller has ended its command with that status, or its `TX` stands at that step. -/
def Ctrl.txAt (l : Ctrl) (fr : Frame) : Except Status TxStep → Prop
  | .error st => l.seq.phase = .idle ∧ l.resp = ⟨st.code, 0, 0, 0, 0⟩
  | .ok a => l.seq.phase = .tx fr a

/-- What `TX` of instance `c` leaves alone when no other agent moves: all but the mailboxes, the sequencer and the port of that
instance. -/
structure State.txKept (s t : State) (c : Inst) : Prop where
  flt : t.flt = s.flt
  cfg : t.cfg = s.cfg
  other : t.ctrl c.other = s.ctrl c.other
  mcr : (t.ctrl c).mcr = (s.ctrl c).mcr
  msr : (t.ctrl c).msr = (s.ctrl c).msr
  btr : (t.ctrl c).btr = (s.ctrl c).btr
  rf : ∀ f, (t.ctrl c).rf f = (s.ctrl c).rf f

theorem State.txKept.trans {s t u : State} {c : Inst} (h : s.txKept t c) (g : t.txKept u c) : s.txKept u c :=
  ⟨g.flt.trans h.flt, g.cfg.trans h.cfg, g.other.trans h.other, g.mcr.trans h.mcr, g.msr.trans h.msr, g.btr.trans h.btr,
    fun f => (g.rf f).trans (h.rf f)⟩

theorem State.txKept.withEnv {s t : State} {c : Inst} (h : s.txKept t c) (e : List Turn) :
    s.txKept { t with env := e } c := by
  obtain ⟨hflt, hcfg, hother, hmcr, hmsr, hbtr, hrf⟩ := h
  exact ⟨hflt, hcfg, by simpa using hother, by simpa using hmcr, by simpa using hmsr, by simpa using hbtr,
    by simpa using hrf⟩

theorem upd_txKept {s : State} {c : Inst} {g : Ctrl → Ctrl} (hmcr : (g (s.ctrl c)).mcr = (s.ctrl c).mcr)
    (hmsr : (g (s.ctrl c)).msr = (s.ctrl c).msr) (hbtr : (g (s.ctrl c)).btr = (s.ctrl c).btr)
    (hrf : ∀ f, (g (s.ctrl c)).rf f = (s.ctrl c).rf f) : s.txKept (s.upd c g) c :=
  ⟨by simp, by simp, by simp, by simpa using hmcr, by simpa using hmsr, by simpa using hbtr, by simpa using hrf⟩

theorem afterRead_txKept (s : State) (c : Inst) (r : Reg) : s.txKept (s.afterRead c r) c :=
  ⟨by simp, by simp, by simp [State.afterRead], by simp, by simp, by simp, by simp⟩

/-- Step `a` of `TX` makes `l` of the controller `k`, by the tables above. -/
structure Ctrl.txMoved (k l : Ctrl) (c : Inst) (budget : Nat) (fr : Frame) (a : TxStep) : Prop where
  mcr : l.mcr = k.mcr
  msr : l.msr = k.msr
  btr : l.btr = k.btr
  rf : ∀ f, l.rf f = k.rf f
  mb : ∀ j, l.mb j = if j = k.seq.sel then a.write (k.mb j) else k.mb j
  trace : l.seq.trace = k.seq.trace ++ a.accesses c k.seq.sel
  tick : l.seq.tick = a.count k.seq.tick
  sel : l.seq.sel = if a = .t1 then k.firstEmpty.getD k.seq.sel else k.seq.sel
  next : l.txAt fr (k.txNext budget fr a)

/-- Step T1 reads `TSR` and chooses a mailbox (R142, R143). -/
theorem arbitrate_moved (k : Ctrl) (c : Inst) (budget : Nat) (fr : Frame) (v : Word) :
    k.txMoved ((k.log (.R (.tsr c))).arbitrate fr v) c budget fr .t1 := by
  have hlog : (k.log (.R (.tsr c))).firstEmpty = k.firstEmpty := rfl
  unfold Ctrl.arbitrate
  rw [hlog]
  cases he : k.firstEmpty <;>
    constructor <;> simp [TxStep.write, TxStep.accesses, TxStep.count, Ctrl.txNext, Ctrl.txAt, Status.code, he]

/-- Step T8 reads `TSR` and counts the poll (R148). -/
theorem poll_moved {k : Ctrl} {fr : Frame} (hp : k.seq.phase = .tx fr .t8) (c : Inst) (budget : Nat) (v : Word) :
    k.txMoved ((k.log (.R (.tsr c))).poll k.seq.sel fr budget v) c budget fr .t8 := by
  by_cases hd : (k.mb k.seq.sel).done = true
  · constructor <;>
      simp [Ctrl.poll, TxStep.write, TxStep.accesses, TxStep.count, Ctrl.txNext, Ctrl.txAt, Status.code, hd]
  · by_cases hlt : k.seq.tick + 1 < budget <;> constructor <;>
      simp [Ctrl.poll, TxStep.write, TxStep.accesses, TxStep.count, Ctrl.txNext, Ctrl.txAt, hd, hlt, hp]

/-- A step of `TX` has a next state, since it reads no window register, and moves as the tables say. -/
theorem txStep_moves {s : State} {c : Inst} {fr : Frame} {a : TxStep} (hp : (s.ctrl c).seq.phase = .tx fr a) :
    ∃ t, seqStep c s = .next t ∧ s.txKept t c ∧ (s.ctrl c).txMoved (t.ctrl c) c s.cfg.txTickBudget fr a := by
  have hstep : seqStep c s = txStep c fr a s := by simp only [seqStep, hp]
  have hupd {g : Ctrl → Ctrl} (hg : (s.ctrl c).txMoved (g (s.ctrl c)) c s.cfg.txTickBudget fr a) :
      s.txKept (s.upd c g) c ∧ (s.ctrl c).txMoved ((s.upd c g).ctrl c) c s.cfg.txTickBudget fr a :=
    ⟨upd_txKept hg.mcr hg.msr hg.btr hg.rf, by rw [ctrl_upd_same]; exact hg⟩
  have hread {g : Ctrl → Ctrl}
      (hg : (s.ctrl c).txMoved (g ((s.ctrl c).log (.R (.tsr c)))) c s.cfg.txTickBudget fr a) :
      s.txKept ((s.afterRead c (.tsr c)).upd c g) c ∧
        (s.ctrl c).txMoved (((s.afterRead c (.tsr c)).upd c g).ctrl c) c s.cfg.txTickBudget fr a := by
    rw [ctrl_upd_same, afterRead_ctrl]
    exact ⟨(afterRead_txKept s c _).trans (upd_txKept (by simpa using hg.mcr) (by simpa using hg.msr)
      (by simpa using hg.btr) (by simpa using hg.rf)), hg⟩
  rw [hstep]
  cases a with
  | t1 => exact ⟨_, rfl, hread (arbitrate_moved _ c _ fr _)⟩
  | t8 =>
    refine ⟨_, rfl, hread ?_⟩
    rw [upd_cfg]
    exact poll_moved hp c _ _
  | t2 =>
    cases he : encodeFrame fr <;> refine ⟨_, by simp only [txStep, he]; rfl, hupd ?_⟩ <;>
      constructor <;> simp [TxStep.write, TxStep.accesses, TxStep.count, Ctrl.txNext, Ctrl.txAt, Status.code, he]
  | _ =>
    refine ⟨_, rfl, hupd ?_⟩
    constructor <;>
      simp [mb_updMb, TxStep.write, TxStep.accesses, TxStep.count, Ctrl.txNext, Ctrl.txAt, Status.code]

end Sys2Proof.Machine
end

section
/-! SUPPORT. A `TX` that fails before it writes: no mailbox is empty, or `ENCODE` rejects the frame (41_transmit.md R143, R145,
60_exceptions.md R248). -/

namespace Sys2Proof.Machine

/-- Before the first step of a `TX` nothing but the port and the sequencer has changed (R57). -/
theorem start_txKept (s : State) (c : Inst) (ph : Phase) : s.txKept (s.upd c (·.start ph)) c :=
  upd_txKept rfl rfl rfl (by simp)

/-- No other agent moves before the command exactly when the first turn, if there is one, is its own. -/
theorem firstMoveOwn_iff {s : State} {c : Inst} : s.firstMoveOwn c = true ↔ ∀ x ∈ s.env.head?, x = .seq c := by
  unfold State.firstMoveOwn
  cases s.env <;> simp

/-! ## No empty mailbox (R143) -/

/-- A `TX` of instance `c` issued at `s` finds no empty mailbox at its first move, and has failed after it. -/
def State.txExhausted (s : State) (c : Inst) (fr : Frame) (ts : List Turn) (u : State) : Prop :=
  s.txKept u c ∧ (∀ i, (u.ctrl c).mb i = (s.ctrl c).mb i) ∧
    (((u.ctrl c).seq.phase = .tx fr .t1 ∧ (u.ctrl c).seq.trace = [] ∧ ∀ x ∈ ts.head?, x = .seq c) ∨
      ((u.ctrl c).txAt fr (.error .bufferExhausted) ∧ (u.ctrl c).seq.trace = [.R (.tsr c)]))

section
variable {s u : State} {c : Inst} {fr : Frame} {ts : List Turn}

theorem txExhausted_seq (hfull : ∀ i, ((s.ctrl c).mb i).tme = false) (h : s.txExhausted c fr ts u)
    (hb : u.busy c = true) : ∃ t, seqStep c u = .next t ∧ s.txExhausted c fr ts.tail t := by
  obtain ⟨hk, hmb, ⟨hphase, htrace, -⟩ | ⟨⟨hphase, -⟩, -⟩⟩ := h
  · obtain ⟨t, ht, hkt, hm⟩ := txStep_moves hphase
    have hnone : (u.ctrl c).firstEmpty = none := firstEmpty_eq_none.2 fun i => by rw [hmb, hfull]
    refine ⟨t, ht, hk.trans hkt, fun i => ?_, .inr ⟨?_, ?_⟩⟩
    · rw [hm.mb, ← hmb]; simp [TxStep.write]
    · simpa [Ctrl.txNext, hnone] using hm.next
    · simpa [htrace, TxStep.accesses] using hm.trace
  · exact absurd hphase ((busy_iff _).1 hb)

theorem txExhausted_bus {d : Inst} {e : BusStep} (h : s.txExhausted c fr (.bus d e :: ts) u) : u.busy c = false := by
  obtain ⟨-, -, ⟨-, -, hhead⟩ | ⟨⟨hphase, -⟩, -⟩⟩ := h
  · simp at hhead
  · exact (not_busy_iff _).2 hphase

end

/-- Settles O33: the first move is T1, which finds no mailbox and ends the command. -/
theorem txWithoutEmptyMailboxFails : Obligations.TxWithoutEmptyMailboxFails := by
  intro s c fr hcan hquiet hfirst hfull
  rw [exec_tx fr hcan]
  obtain ⟨t, ts', hrun, ⟨hk, hmb, hp⟩, hend⟩ := runTurns_follows (Q := s.txExhausted c fr)
    (fun _ _ h hb _ => txExhausted_seq hfull h hb)
    (fun _ _ _ _ h hb => absurd hb (by simp [txExhausted_bus h]))
    (fun _ _ e ⟨hk, hmb, hp⟩ => ⟨hk.withEnv e, by simpa using hmb, by simpa using hp⟩) s.env
    (s.upd c (·.start (.tx fr .t1)))
    ⟨start_txKept s c _, by simp, .inl ⟨by simp, by simp, firstMoveOwn_iff.1 hfirst⟩⟩ (by simpa [State.quiet] using hquiet)
  obtain ⟨hphase, -, -⟩ | ⟨⟨hphase, hresp⟩, htrace⟩ := hp
  · exact absurd hend (tx_goes_on hphase)
  · exact ⟨t, hrun, (not_busy_iff _).2 hphase, hresp, htrace, hk.flt, hk.other, hk.mcr, hk.msr, hk.btr, hmb, hk.rf⟩

/-! ## A frame that `ENCODE` rejects (R145) -/

/-- A `TX` of instance `c` issued at `s`, with a frame that `ENCODE` rejects: it stands at T1 or T2 or has failed, and BUS
alone has written to the mailboxes, of which one is still empty. -/
structure State.txRejected (s : State) (c : Inst) (fr : Frame) (u : State) : Prop where
  flt : u.flt = s.flt
  contents : ∀ i, ((u.ctrl c).mb i).contents = ((s.ctrl c).mb i).contents
  idle : ∀ i, ((s.ctrl c).mb i).ti.txrq = false → (u.ctrl c).mb i = (s.ctrl c).mb i
  at_ : ((u.ctrl c).seq.phase = .tx fr .t1 ∧ (u.ctrl c).seq.trace = [] ∧ ∃ i, ((u.ctrl c).mb i).tme = true) ∨
    ((u.ctrl c).seq.phase = .tx fr .t2 ∧ (u.ctrl c).seq.trace = [.R (.tsr c)]) ∨
    ((u.ctrl c).txAt fr (.error .invalidFrame) ∧ (u.ctrl c).seq.trace = [.R (.tsr c)])

section
variable {s u : State} {c : Inst} {fr : Frame}

theorem txRejected_seq (henc : encodeFrame fr = none) (h : s.txRejected c fr u) (hb : u.busy c = true) :
    ∃ t, seqStep c u = .next t ∧ s.txRejected c fr t := by
  obtain ⟨hflt, hcont, hidle, hat⟩ := h
  have hsame {t : State} {a : TxStep} (hm : (u.ctrl c).txMoved (t.ctrl c) c u.cfg.txTickBudget fr a)
      (ha : a = .t1 ∨ a = .t2) (i : Mb) : (t.ctrl c).mb i = (u.ctrl c).mb i := by
    rw [hm.mb]
    obtain rfl | rfl := ha <;> exact ite_self _
  obtain ⟨hphase, htrace, i, hi⟩ | ⟨hphase, htrace⟩ | ⟨⟨hphase, -⟩, -⟩ := hat
  · obtain ⟨t, ht, hk, hm⟩ := txStep_moves hphase
    have hsome : (u.ctrl c).firstEmpty ≠ none := fun hn => by simp [firstEmpty_eq_none.1 hn i] at hi
    refine ⟨t, ht, hk.flt.trans hflt, fun j => by rw [hsame hm (.inl rfl), hcont],
      fun j hj => by rw [hsame hm (.inl rfl), hidle j hj], .inr (.inl ⟨?_, ?_⟩)⟩
    · simpa [Ctrl.txAt, Ctrl.txNext, hsome] using hm.next
    · simpa [htrace, TxStep.accesses] using hm.trace
  · obtain ⟨t, ht, hk, hm⟩ := txStep_moves hphase
    refine ⟨t, ht, hk.flt.trans hflt, fun j => by rw [hsame hm (.inr rfl), hcont],
      fun j hj => by rw [hsame hm (.inr rfl), hidle j hj], .inr (.inr ⟨?_, ?_⟩)⟩
    · simpa [Ctrl.txNext, henc] using hm.next
    · simpa [htrace, TxStep.accesses] using hm.trace
  · exact absurd hphase ((busy_iff _).1 hb)

theorem txRejected_bus {d : Inst} {e : BusStep} {t : State} (h : s.txRejected c fr u) (he : busStep d e u = some t) :
    s.txRejected c fr t := by
  obtain ⟨hflt, hcont, hidle, hat⟩ := h
  have hk := busStep_kept he c
  refine ⟨(busStep_flt he).trans hflt, fun i => (hk.contents i).trans (hcont i), fun i hi => ?_, ?_⟩
  · have hu := hidle i hi
    rw [← hu]
    exact hk.mb i (by rw [hu, hi])
  · unfold Ctrl.txAt
    rw [hk.seq, hk.resp]
    exact hat.imp_left fun ⟨hphase, htrace, i, hi⟩ => ⟨hphase, htrace, i, hk.tme i hi⟩

end

/-- Settles O34: T1 chooses a mailbox and T2 ends the command, and neither writes one. -/
theorem txOfLongFrameFails : Obligations.TxOfLongFrameFails := by
  intro s c id len bytes hcan hquiet hempty hlong
  rw [exec_tx _ hcan]
  obtain ⟨t, hrun, hrej, hend⟩ := runTurns_reaches (P := s.txRejected c (.data id len bytes))
    (fun _ h hb => txRejected_seq (encodeFrame_long hlong id bytes) h hb) (fun _ _ _ _ h he => txRejected_bus h he)
    (fun _ e ⟨hflt, hcont, hidle, hat⟩ => ⟨hflt, by simpa using hcont, by simpa using hidle, by simpa using hat⟩) s.env
    (s.upd c (·.start (.tx (.data id len bytes) .t1)))
    ⟨by simp, by simp, by simp, .inl ⟨by simp, by simp, by simpa using hempty⟩⟩ (by simpa [State.quiet] using hquiet)
  obtain ⟨hphase, -⟩ | ⟨hphase, -⟩ | ⟨⟨hphase, hresp⟩, htrace⟩ := hrej.at_
  · exact absurd hend (tx_goes_on hphase)
  · exact absurd hend (tx_goes_on hphase)
  · exact ⟨t, hrun, (not_busy_iff _).2 hphase, hresp, htrace, hrej.flt, fun i => ⟨hrej.contents i, hrej.idle i⟩⟩

end Sys2Proof.Machine
end

section
/-! SUPPORT. The run of a `TX` that found an empty mailbox and a valid frame, step by step: what the mailbox holds and which
accesses have been made before each step (41_transmit.md R141 to R150). -/

namespace Sys2Proof.Machine

/-! ## What stands before each step -/

/-- The mailbox with the frame's image, before the request (R144, R146). -/
def Mailbox.load (img : Image) (m : Mailbox) : Mailbox :=
  { m with
    ti := TiReg.ofWord img.ti
    dlc := img.dlc
    tgt := false
    tdl := if img.hasData then img.tdl else m.tdl
    tdh := if img.hasData then img.tdh else m.tdh }

/-- What the steps before a step of `TX` have made of the selected mailbox `m` (R141). -/
def TxStep.loaded (img : Image) (a : TxStep) (m : Mailbox) : Mailbox :=
  match a with
  | .t1 | .t2 | .t3 _ => m
  | .t4 _ => { m with ti := TiReg.ofWord img.ti }
  | .t5a _ => { m with ti := TiReg.ofWord img.ti, dlc := img.dlc }
  | .t5b _ => { m with ti := TiReg.ofWord img.ti, dlc := img.dlc, tdl := img.tdl }
  | .t6 => { m.load img with tgt := m.tgt }
  | .t7 => m.load img
  | .t8 | .t9 => (m.load img).request

/-- The accesses that load mailbox `i`, T1 to T5 (R83, R141). -/
def loadRecord (c : Inst) (i : Mb) (img : Image) : List Access :=
  [.R (.tsr c), .W (.ti c i), .F (.tdt c i) [.dlc]] ++ if img.hasData then [.W (.tdl c i), .W (.tdh c i)] else []

/-- The accesses before a step of `TX` on mailbox `i`, with `tick` polls made (R83, R141). -/
def TxStep.record (c : Inst) (i : Mb) (img : Image) (tick : Nat) : TxStep → List Access
  | .t1 => []
  | .t2 | .t3 _ => [.R (.tsr c)]
  | .t4 _ => [.R (.tsr c), .W (.ti c i)]
  | .t5a _ => [.R (.tsr c), .W (.ti c i), .F (.tdt c i) [.dlc]]
  | .t5b _ => [.R (.tsr c), .W (.ti c i), .F (.tdt c i) [.dlc], .W (.tdl c i)]
  | .t6 => loadRecord c i img
  | .t7 => loadRecord c i img ++ [.F (.tdt c i) [.tgt]]
  | .t8 | .t9 =>
    loadRecord c i img ++ [.F (.tdt c i) [.tgt], .F (.ti c i) [.txrq]] ++ List.replicate tick (.R (.tsr c))

/-- The steps that carry an image carry the frame's; T5 is for Data Frames; the polls keep to the budget (R148). -/
def TxStep.fits (img : Image) (budget tick : Nat) : TxStep → Prop
  | .t3 img' | .t4 img' => img' = img
  | .t5a img' | .t5b img' => img' = img ∧ img.hasData = true
  | .t8 => tick < budget
  | .t9 => tick = budget
  | .t1 | .t2 | .t6 | .t7 => True

/-- How many steps T1 to T7 are: T5 is two steps or none (R141). -/
def Image.requestSteps (img : Image) : Nat := if img.hasData then 8 else 6

/-- The number of steps made before a step of `TX`. -/
def TxStep.position (img : Image) (tick : Nat) : TxStep → Nat
  | .t1 => 0
  | .t2 => 1
  | .t3 _ => 2
  | .t4 _ => 3
  | .t5a _ => 4
  | .t5b _ => 5
  | .t6 => img.requestSteps - 2
  | .t7 => img.requestSteps - 1
  | .t8 | .t9 => img.requestSteps + tick

/-- The step that follows `a` is where the mailbox, the record, the position and the tick stand after `a`. -/
structure TxStep.follows (c : Inst) (i : Mb) (img : Image) (budget tick : Nat) (a b : TxStep) : Prop where
  fits : b.fits img budget (a.count tick)
  loaded : ∀ m, a.write (a.loaded img m) = b.loaded img m
  record : a.record c i img tick ++ a.accesses c i = b.record c i img (a.count tick)
  position : b.position img (a.count tick) = a.position img tick + 1

/-- A step of `TX` that does not end the command leads to the one that follows it; T8 ends it on completion, T9 always. -/
theorem txNext_follows {k : Ctrl} {fr : Frame} {img : Image} {budget : Nat} {a : TxStep} (c : Inst) (i : Mb)
    (henc : encodeFrame fr = some img) (hbudget : 0 < budget) (hempty : a = .t1 → k.firstEmpty = some i)
    (hfits : a.fits img budget k.seq.tick) :
    (∃ b, k.txNext budget fr a = .ok b ∧ b ≠ .t1 ∧ a.follows c i img budget k.seq.tick b) ∨
    (a = .t8 ∧ (k.mb k.seq.sel).done = true ∧ k.txNext budget fr a = .error .ok) ∨
    (a = .t9 ∧ k.txNext budget fr a = .error .timeout) := by
  cases a with
  | t1 => exact .inl ⟨.t2, by simp [Ctrl.txNext, hempty], by simp, trivial, fun _ => rfl, rfl, rfl⟩
  | t2 => exact .inl ⟨.t3 img, by simp [Ctrl.txNext, henc], by simp, rfl, fun _ => rfl, rfl, rfl⟩
  | t3 img' =>
    obtain rfl : img' = img := hfits
    exact .inl ⟨.t4 img', rfl, by simp, rfl, fun _ => rfl, rfl, rfl⟩
  | t4 img' =>
    obtain rfl : img' = img := hfits
    cases hd : img'.hasData with
    | true => exact .inl ⟨.t5a img', by simp [Ctrl.txNext, hd], by simp, ⟨rfl, hd⟩, fun _ => rfl, rfl, rfl⟩
    | false =>
      exact .inl ⟨.t6, by simp [Ctrl.txNext, hd], by simp, trivial,
        fun m => by simp [TxStep.write, TxStep.loaded, Mailbox.load, hd],
        by simp [TxStep.record, TxStep.accesses, loadRecord, hd],
        by simp [TxStep.position, Image.requestSteps, hd]⟩
  | t5a img' =>
    obtain ⟨rfl, hd⟩ := hfits
    exact .inl ⟨.t5b img', rfl, by simp, ⟨rfl, hd⟩, fun _ => rfl, rfl, rfl⟩
  | t5b img' =>
    obtain ⟨rfl, hd⟩ := hfits
    exact .inl ⟨.t6, rfl, by simp, trivial,
        fun m => by simp [TxStep.write, TxStep.loaded, Mailbox.load, hd],
        by simp [TxStep.record, TxStep.accesses, loadRecord, hd],
        by simp [TxStep.position, Image.requestSteps, hd]⟩
  | t6 =>
    exact .inl ⟨.t7, rfl, by simp, trivial, fun _ => rfl, rfl,
      by cases hd : img.hasData <;> simp [TxStep.position, Image.requestSteps, hd]⟩
  | t7 =>
    exact .inl ⟨.t8, rfl, by simp, hbudget, fun _ => rfl, by simp [TxStep.record, TxStep.accesses, TxStep.count],
      by cases hd : img.hasData <;> simp [TxStep.position, TxStep.count, Image.requestSteps, hd]⟩
  | t8 =>
    have hrec : TxStep.record c i img k.seq.tick .t8 ++ TxStep.accesses c i .t8 =
        TxStep.record c i img (k.seq.tick + 1) .t8 := by
      simp [TxStep.record, TxStep.accesses, List.replicate_succ']
    by_cases hd : (k.mb k.seq.sel).done = true
    · exact .inr (.inl ⟨rfl, hd, by simp [Ctrl.txNext, hd]⟩)
    by_cases hlt : k.seq.tick + 1 < budget
    · exact .inl ⟨.t8, by simp [Ctrl.txNext, hd, hlt], by simp, hlt, fun _ => rfl, hrec, rfl⟩
    · have heq : k.seq.tick + 1 = budget := Nat.le_antisymm hfits (Nat.not_lt.1 hlt)
      exact .inl ⟨.t9, by simp [Ctrl.txNext, hd, hlt], by simp, heq, fun _ => rfl, hrec, rfl⟩
  | t9 => exact .inr (.inr ⟨rfl, rfl⟩)

/-! ## The mailboxes along the run -/

/-- The controller `l` of a `TX` issued at the controller `k`, with the mailboxes compared by `f`: mailbox `i` is what `g`
made of it, the other ones are as they were. -/
def Ctrl.loadedMb (f : Mailbox → Mailbox) (k : Ctrl) (i : Mb) (g : Mailbox → Mailbox) (l : Ctrl) : Prop :=
  f (l.mb i) = f (g (k.mb i)) ∧ ∀ j, j ≠ i → f (l.mb j) = f (k.mb j)

/-- What `f` shows of a mailbox after a step's write is told by what it shows before it: so for the whole mailbox, and for
what SEQ alone writes. -/
def RespectsWrites (f : Mailbox → Mailbox) : Prop :=
  ∀ (a : TxStep) (m m' : Mailbox), f m = f m' → f (a.write m) = f (a.write m')

theorem respectsWrites_id : RespectsWrites id := fun a _ _ h => congrArg a.write h

theorem respectsWrites_contents : RespectsWrites Mailbox.contents := by
  intro a m m' h
  simp only [Mailbox.contents, Mailbox.mk.injEq, TiReg.mk.injEq, and_true] at h
  cases a <;> simp [TxStep.write, Mailbox.contents, Mailbox.request, Mailbox.abort, h]

/-- The controller `l` of a `TX` of frame `fr` on mailbox `i`, issued at the controller `k`, before step `a`. -/
structure Ctrl.sending (f : Mailbox → Mailbox) (k : Ctrl) (c : Inst) (fr : Frame) (img : Image) (i : Mb) (budget : Nat)
    (a : TxStep) (l : Ctrl) : Prop where
  phase : l.seq.phase = .tx fr a
  sel : a ≠ .t1 → l.seq.sel = i
  fits : a.fits img budget l.seq.tick
  mb : k.loadedMb f i (a.loaded img) l
  trace : l.seq.trace = a.record c i img l.seq.tick

/-- It has ended with a status after `n` polls: `g` tells what is in the mailbox, `tr` the accesses after the polls. -/
structure Ctrl.sendEnded (f : Mailbox → Mailbox) (k : Ctrl) (c : Inst) (img : Image) (i : Mb) (st : Status) (n : Nat)
    (g : Mailbox → Mailbox) (tr : List Access) (l : Ctrl) : Prop where
  phase : l.seq.phase = .idle
  resp : l.resp = ⟨st.code, 0, 0, 0, 0⟩
  sel : l.seq.sel = i
  mb : k.loadedMb f i g l
  trace : l.seq.trace = TxStep.t8.record c i img n ++ tr

/-- It has ended with `Ok` within the budget of polls, the last of which found the mailbox done (R148). -/
def Ctrl.sentOk (f : Mailbox → Mailbox) (k : Ctrl) (c : Inst) (img : Image) (i : Mb) (budget : Nat) (l : Ctrl) : Prop :=
  (l.mb i).done = true ∧ ∃ n, n ≤ budget ∧ k.sendEnded f c img i .ok n (TxStep.t8.loaded img) [] l

/-- It has ended with `Timeout` after all polls and an abort request (R149). -/
def Ctrl.timedOut (f : Mailbox → Mailbox) (k : Ctrl) (c : Inst) (img : Image) (i : Mb) (budget : Nat) (l : Ctrl) : Prop :=
  k.sendEnded f c img i .timeout budget (fun m => (TxStep.t9.loaded img m).abort) [.F (.tsr c) [.abrq i]] l

section
variable {f : Mailbox → Mailbox} {k l l' : Ctrl} {c : Inst} {fr : Frame} {img : Image} {i : Mb} {budget : Nat} {a : TxStep}

/-- A step writes mailbox `i` and no other: T1, before which `i` is not selected yet, writes none. -/
theorem txMoved_loadedMb (hf : RespectsWrites f) (hsel : a ≠ .t1 → l.seq.sel = i) (hmb : k.loadedMb f i (a.loaded img) l)
    (hm : l.txMoved l' c budget fr a) : k.loadedMb f i (fun m => a.write (a.loaded img m)) l' := by
  have hj (j : Mb) : l'.mb j = if j = i then a.write (l.mb j) else l.mb j := by
    rw [hm.mb]
    by_cases ha : a = .t1
    · subst ha; simp [TxStep.write]
    · rw [hsel ha]
  obtain ⟨hi, hother⟩ := hmb
  exact ⟨by rw [hj, if_pos rfl]; exact hf a _ _ hi, fun j hne => by rw [hj, if_neg hne, hother j hne]⟩

theorem txMoved_record (hsel : a ≠ .t1 → l.seq.sel = i) (htrace : l.seq.trace = a.record c i img l.seq.tick)
    (hm : l.txMoved l' c budget fr a) : l'.seq.trace = a.record c i img l.seq.tick ++ a.accesses c i := by
  rw [hm.trace, htrace]
  by_cases ha : a = .t1
  · subst ha; rfl
  · rw [hsel ha]

theorem txMoved_sel (hsel : a ≠ .t1 → l.seq.sel = i) (hempty : a = .t1 → l.firstEmpty = some i)
    (hm : l.txMoved l' c budget fr a) : l'.seq.sel = i := by
  rw [hm.sel]
  split
  next ha => rw [hempty ha, Option.getD_some]
  next ha => exact hsel ha

end

/-- One step of the run: to the step that follows, to `Ok` from a poll that finds the mailbox done, or to `Timeout` from T9. -/
theorem sending_step {f : Mailbox → Mailbox} {k : Ctrl} {c : Inst} {fr : Frame} {img : Image} {i : Mb} {a : TxStep}
    {budget : Nat} {s : State} (hcfg : s.cfg.txTickBudget = budget) (hf : RespectsWrites f) (henc : encodeFrame fr = some img)
    (hbudget : 0 < budget) (hempty : a = .t1 → (s.ctrl c).firstEmpty = some i)
    (h : k.sending f c fr img i budget a (s.ctrl c)) :
    ∃ t, seqStep c s = .next t ∧ s.txKept t c ∧
      ((∃ b, b ≠ .t1 ∧ k.sending f c fr img i budget b (t.ctrl c) ∧
          b.position img (t.ctrl c).seq.tick = a.position img (s.ctrl c).seq.tick + 1) ∨
        k.sentOk f c img i budget (t.ctrl c) ∨
        (a = .t9 ∧ (t.ctrl c).mb i = ((s.ctrl c).mb i).abort ∧ k.timedOut f c img i budget (t.ctrl c))) := by
  subst hcfg
  obtain ⟨hphase, hsel, hfits, hmb, htrace⟩ := h
  obtain ⟨t, ht, hk, hm⟩ := txStep_moves hphase
  have hmb' := txMoved_loadedMb hf hsel hmb hm
  have htrace' := txMoved_record hsel htrace hm
  have hsel' := txMoved_sel hsel hempty hm
  refine ⟨t, ht, hk, ?_⟩
  obtain ⟨b, hnext, hb, hfollow⟩ | ⟨rfl, hdone, hnext⟩ | ⟨rfl, hnext⟩ := txNext_follows c i henc hbudget hempty hfits
  all_goals
    have hat := hm.next
    rw [hnext] at hat
  · obtain ⟨hfits', hload, hrec, hpos⟩ := hfollow
    rw [← hm.tick] at hfits' hrec hpos
    exact .inl ⟨b, hb, ⟨hat, fun _ => hsel', hfits', by simpa only [hload] using hmb', htrace'.trans hrec⟩, hpos⟩
  · have hsame : (t.ctrl c).mb i = (s.ctrl c).mb i := by rw [hm.mb]; exact ite_self _
    rw [hsel (by simp), ← hsame] at hdone
    refine .inr (.inl ⟨hdone, _, hfits, hat.1, hat.2, hsel', hmb', htrace'.trans ?_⟩)
    simp [TxStep.record, TxStep.accesses, List.replicate_succ']
  · refine .inr (.inr ⟨rfl, ?_, hat.1, hat.2, hsel', hmb', htrace'.trans ?_⟩)
    · rw [hm.mb, if_pos (hsel (by simp)).symm]; rfl
    · rw [show (s.ctrl c).seq.tick = _ from hfits]; rfl

theorem start_sending (f : Mailbox → Mailbox) (k : Ctrl) (c : Inst) (fr : Frame) (img : Image) (i : Mb) (budget : Nat) :
    k.sending f c fr img i budget .t1 (k.start (.tx fr .t1)) :=
  ⟨rfl, fun h => absurd rfl h, trivial, ⟨by simp [TxStep.loaded], fun j _ => by simp⟩, rfl⟩

/-- The mailbox holds the image once it is loaded (R144, R146, R150), told by what SEQ alone writes. -/
theorem holds_of_contents_load {fr : Frame} {img : Image} (henc : encodeFrame fr = some img) {m old : Mailbox}
    (h : m.contents = (old.load img).contents) : m.holds img old := by
  simp only [Mailbox.contents, Mailbox.load, Mailbox.mk.injEq] at h
  obtain ⟨hti, hdlc, htgt, hlo, hhi, -⟩ := h
  have hq : (TiReg.ofWord img.ti).txrq = false := encodeFrame_ti_bit0 henc
  refine ⟨hti.trans ?_, hdlc, htgt, hlo, hhi⟩
  rw [← hq]

end Sys2Proof.Machine
end

section
/-! SUPPORT. `TX` when BUS does not move, and when it moves once, to send the frame before a poll (41_transmit.md R148 to R150,
45_bus_engine.md R217). -/

namespace Sys2Proof.Machine

section
variable {k l : Ctrl} {c : Inst} {fr : Frame} {img : Image} {i : Mb} {budget : Nat}

theorem loadedMb_id_iff {g : Mailbox → Mailbox} :
    k.loadedMb id i g l ↔ ∀ j, l.mb j = if j = i then g (k.mb j) else k.mb j := by
  refine ⟨fun ⟨hi, hother⟩ j => ?_, fun h => ⟨?_, fun j hj => ?_⟩⟩
  · split
    next hj => rw [hj]; exact hi
    next hj => exact hother j hj
  · exact (h i).trans (if_pos rfl)
  · exact (h j).trans (if_neg hj)

theorem firstEmpty_congr (h : ∀ j, l.mb j = k.mb j) : l.firstEmpty = k.firstEmpty := by
  have h0 := h .m0
  have h1 := h .m1
  have h2 := h .m2
  simp only [Ctrl.mb] at h0 h1 h2
  simp [Ctrl.firstEmpty, h0, h1, h2]

/-- T1 finds the mailboxes as they were at the issue. -/
theorem sending_firstEmpty (h : k.sending id c fr img i budget .t1 l) : l.firstEmpty = k.firstEmpty :=
  firstEmpty_congr fun j => (loadedMb_id_iff.1 h.mb j).trans (ite_self _)

/-- The request that T7 makes is not done before BUS concludes it (R148, R216). -/
theorem not_sentOk_id : ¬ k.sentOk id c img i budget l := by
  rintro ⟨hdone, n, -, he⟩
  rw [show l.mb i = _ from he.mb.1] at hdone
  exact absurd hdone (by simp [TxStep.loaded, Mailbox.request, Mailbox.done])

end

section
variable {s u : State} {c : Inst} {fr : Frame} {img : Image} {i : Mb} {n : Nat} {ts : List Turn}

/-! ## A dead bus (R149) -/

/-- A `TX` of instance `c` issued at `s`, with no turn of another agent: it is on its way or has timed out. -/
def State.txAlone (s : State) (c : Inst) (fr : Frame) (img : Image) (i : Mb) (ts : List Turn) (u : State) : Prop :=
  ts = [] ∧ s.txKept u c ∧
    ((∃ a, (s.ctrl c).sending id c fr img i s.cfg.txTickBudget a (u.ctrl c)) ∨
      (s.ctrl c).timedOut id c img i s.cfg.txTickBudget (u.ctrl c))

theorem txAlone_seq (henc : encodeFrame fr = some img) (hbudget : 0 < s.cfg.txTickBudget)
    (hfirst : (s.ctrl c).firstEmpty = some i) (h : s.txAlone c fr img i ts u) (hb : u.busy c = true) :
    ∃ t, seqStep c u = .next t ∧ s.txAlone c fr img i ts.tail t := by
  obtain ⟨rfl, hk, ⟨a, ha⟩ | he⟩ := h
  · obtain ⟨t, ht, hkt, hstep⟩ := sending_step (by rw [hk.cfg]) respectsWrites_id henc hbudget
      (fun h1 => by subst h1; rw [sending_firstEmpty ha, hfirst]) ha
    refine ⟨t, ht, rfl, hk.trans hkt, ?_⟩
    obtain ⟨b, -, hb', -⟩ | hok | ⟨-, -, he⟩ := hstep
    · exact .inl ⟨b, hb'⟩
    · exact absurd hok not_sentOk_id
    · exact .inr he
  · exact absurd he.phase ((busy_iff _).1 hb)

/-- Settles O36: the command goes its steps alone, and no poll finds the request done, so that it ends with T9. -/
theorem txTimesOutOnADeadBus : Obligations.TxTimesOutOnADeadBus := by
  intro s c fr img i hcan henv hbudget hi hfirst henc
  rw [exec_tx fr hcan, henv]
  obtain ⟨t, ts', hrun, ⟨-, hk, hp⟩, hend⟩ := runTurns_follows (Q := s.txAlone c fr img i)
    (fun _ _ h hb _ => txAlone_seq henc hbudget (firstEmpty_eq_some.2 ⟨hi, hfirst⟩) h hb)
    (fun _ _ _ _ h _ => nomatch h.1)
    (fun _ _ e ⟨hts, hk, hp⟩ => ⟨hts, hk.withEnv e, by simpa using hp⟩) [] (s.upd c (·.start (.tx fr .t1)))
    ⟨rfl, start_txKept s c _, .inl ⟨.t1, by simpa using start_sending id _ c fr img i _⟩⟩ rfl
  obtain ⟨a, ha⟩ | he := hp
  · exact absurd hend (tx_goes_on ha.phase)
  · have hmb : (t.ctrl c).mb i = (TxStep.t9.loaded img ((s.ctrl c).mb i)).abort := he.mb.1
    refine ⟨t, hrun, (not_busy_iff _).2 he.phase, he.resp, ?_, ?_, ?_, ?_, ?_, ?_, ?_, he.mb.2, hk.flt, hk.other, hk.mcr,
      hk.msr, hk.btr, hk.rf⟩
    · rw [he.trace]; simp [TxStep.record, loadRecord]
    · exact holds_of_contents_load henc (by rw [hmb]; rfl)
    all_goals rw [hmb]; simp [TxStep.loaded, Mailbox.request, Mailbox.abort]

/-! ## A frame that is sent before a poll (R148, R217) -/

/-- The turns of a `TX` whose frame BUS sends from mailbox `i` after `m` more steps. -/
def sentAfter (c : Inst) (i : Mb) (m : Nat) : List Turn := List.replicate m (.seq c) ++ [.bus c (.txOk i)]

/-- A `TX` of instance `c` issued at `s` whose frame BUS sends when `n` polls have been made: it goes its steps alone up to
there, with the turns `ts` to come, and then has the concluded mailbox to find. -/
def State.txSentAfter (s : State) (c : Inst) (fr : Frame) (img : Image) (i : Mb) (n : Nat) (ts : List Turn) (u : State) :
    Prop :=
  s.txKept u c ∧
    ((∃ a m, (s.ctrl c).sending id c fr img i s.cfg.txTickBudget a (u.ctrl c) ∧
        m + a.position img (u.ctrl c).seq.tick = img.requestSteps + n ∧ ts = sentAfter c i m) ∨
      (ts = [] ∧ (u.ctrl c).seq.sel = i ∧
        (s.ctrl c).loadedMb id i (fun m => (TxStep.t8.loaded img m).conclude true) (u.ctrl c) ∧
        ((u.ctrl c).txAt fr (.ok .t8) ∨ (u.ctrl c).txAt fr (.error .ok))))

/-- With `n` polls made and the budget not used up, the step to come is a poll. -/
theorem eq_t8_of_position {a : TxStep} {tick budget : Nat} (hfits : a.fits img budget tick) (hn : n < budget)
    (h : a.position img tick = img.requestSteps + n) : a = .t8 := by
  cases a
  case t8 => rfl
  case t9 =>
    have htick : tick = budget := hfits
    simp only [TxStep.position] at h
    omega
  all_goals
    simp only [TxStep.position, Image.requestSteps] at h
    split at h <;> omega

theorem txSentAfter_seq (henc : encodeFrame fr = some img) (hn : n < s.cfg.txTickBudget)
    (hfirst : (s.ctrl c).firstEmpty = some i) (h : s.txSentAfter c fr img i n ts u) (hb : u.busy c = true)
    (hown : ∀ x ∈ ts.head?, x = .seq c) : ∃ t, seqStep c u = .next t ∧ s.txSentAfter c fr img i n ts.tail t := by
  obtain ⟨hk, ⟨a, m, ha, hm, rfl⟩ | ⟨rfl, hsel, hmb, hphase | ⟨hphase, -⟩⟩⟩ := h
  · cases m with
    | zero => simp [sentAfter] at hown
    | succ m =>
      obtain ⟨t, ht, hkt, hstep⟩ := sending_step (by rw [hk.cfg]) respectsWrites_id henc (Nat.zero_lt_of_lt hn)
        (fun h1 => by subst h1; rw [sending_firstEmpty ha, hfirst]) ha
      refine ⟨t, ht, hk.trans hkt, .inl ?_⟩
      obtain ⟨b, -, hb', hpos⟩ | hok | ⟨rfl, -, -⟩ := hstep
      · exact ⟨b, m, hb', by omega, rfl⟩
      · exact absurd hok not_sentOk_id
      · have hbudget : (u.ctrl c).seq.tick = s.cfg.txTickBudget := ha.fits
        simp only [TxStep.position] at hm
        omega
  · obtain ⟨t, ht, hkt, hm⟩ := txStep_moves hphase
    have hsame (j : Mb) : (t.ctrl c).mb j = (u.ctrl c).mb j := by rw [hm.mb]; exact ite_self _
    have hdone : ((u.ctrl c).mb (u.ctrl c).seq.sel).done = true := by
      rw [hsel, show (u.ctrl c).mb i = _ from hmb.1]; rfl
    refine ⟨t, ht, hk.trans hkt, .inr ⟨rfl, by rw [hm.sel, if_neg (by simp), hsel], ?_, .inr ?_⟩⟩
    · simpa only [Ctrl.loadedMb, hsame] using hmb
    · simpa [Ctrl.txNext, hdone] using hm.next
  · exact absurd hphase ((busy_iff _).1 hb)

theorem txSentAfter_bus (hn : n < s.cfg.txTickBudget) (hmode : (s.ctrl c).normalMode = true)
    (hdrive : (!(s.ctrl c).silm || (s.ctrl c).lbkm) = true) {d : Inst} {e : BusStep}
    (h : s.txSentAfter c fr img i n (.bus d e :: ts) u) : s.txSentAfter c fr img i n ts ((busStep d e u).getD u) := by
  obtain ⟨hk, ⟨a, m, ha, hm, hts⟩ | ⟨hts, -⟩⟩ := h
  · cases m with
    | succ m => simp [sentAfter, List.replicate_succ] at hts
    | zero =>
      obtain ⟨⟨rfl, rfl⟩, rfl⟩ : (d = c ∧ e = .txOk i) ∧ ts = [] := by simpa [sentAfter] using hts
      obtain rfl : a = .t8 := eq_t8_of_position ha.fits hn ((Nat.zero_add _).symm.trans hm)
      have hmb := loadedMb_id_iff.1 ha.mb
      have hmode' : (u.ctrl d).normalMode = true := by rw [← hmode]; simp only [Ctrl.normalMode, hk.mcr, hk.msr]
      have hdrive' : (!(u.ctrl d).silm || (u.ctrl d).lbkm) = true := by
        rw [← hdrive]; simp only [Ctrl.silm, Ctrl.lbkm, hk.btr]
      have hpending : ((u.ctrl d).mb i).ti.txrq = true := by rw [hmb, if_pos rfl]; rfl
      have hsend : (u.ctrl d).canSend i = true := by rw [Ctrl.canSend, hmode', hdrive', hpending]; rfl
      have hbus : busStep d (.txOk i) u = some (u.upd d fun k => k.updMb i (Mailbox.conclude true)) := if_pos hsend
      rw [hbus, Option.getD_some]
      refine ⟨hk.trans (upd_txKept (by simp) (by simp) (by simp) (by simp)), .inr ⟨rfl, ?_, ?_, .inl ?_⟩⟩
      · simpa using ha.sel
      · rw [loadedMb_id_iff]
        intro j
        rw [ctrl_upd_same, mb_updMb, hmb j]
        split <;> rfl
      · simpa [Ctrl.txAt] using ha.phase
  · cases hts

end

/-- Settles O35, by the position of the step in the run: BUS moves at T8 with `n` polls made, where the request stands and its
guard holds, and the next poll finds the mailbox done. -/
theorem txCompletesWhenBusSends : Obligations.TxCompletesWhenBusSends := by
  intro s c fr img i n hcan hpres hinrq hinak hslak hdrive hi hfirst henc hn henv
  have hmode : (s.ctrl c).normalMode = true := by simp [Ctrl.normalMode, hinrq, hinak, hslak]
  have hdrive' : (!(s.ctrl c).silm || (s.ctrl c).lbkm) = true := by simpa [Ctrl.silm, Ctrl.lbkm] using hdrive
  have henv' : s.env = sentAfter c i (img.requestSteps + n) := henv
  rw [exec_tx fr hcan, henv']
  obtain ⟨t, ts', hrun, ⟨hk, hp⟩, hend⟩ := runTurns_follows (Q := s.txSentAfter c fr img i n)
    (fun _ _ h hb hown => txSentAfter_seq henc hn (firstEmpty_eq_some.2 ⟨hi, hfirst⟩) h hb hown)
    (fun _ _ _ _ h _ => txSentAfter_bus hn hmode hdrive' h)
    (fun _ _ e ⟨hk, hp⟩ => ⟨hk.withEnv e, by simpa using hp⟩) (sentAfter c i (img.requestSteps + n))
    (s.upd c (·.start (.tx fr .t1)))
    ⟨start_txKept s c _, .inl ⟨.t1, _, by simpa using start_sending id _ c fr img i _, by simp [TxStep.position], rfl⟩⟩
    (by simp [sentAfter, Turn.ownOrBus, Turn.inst, hpres])
  obtain ⟨a, m, ha, -⟩ | ⟨-, -, hmb, hphase | ⟨hphase, hresp⟩⟩ := hp
  · exact absurd hend (tx_goes_on ha.phase)
  · exact absurd hend (tx_goes_on hphase)
  · have hmbi : (t.ctrl c).mb i = (TxStep.t8.loaded img ((s.ctrl c).mb i)).conclude true := hmb.1
    refine ⟨t, hrun, (not_busy_iff _).2 hphase, hresp, ?_, ?_, ?_, ?_, ?_, ?_, hmb.2, hk.flt, hk.other, hk.mcr,
      hk.msr, hk.btr, hk.rf⟩
    · exact holds_of_contents_load henc (by rw [hmbi]; rfl)
    all_goals rw [hmbi]; rfl

end Sys2Proof.Machine
end

section
/-! SUPPORT. `TX` under any moves of BUS (41_transmit.md R140, R147 to R153): what SEQ alone writes tells what the mailbox
holds, and the invariant of the machine tells its flags. -/

namespace Sys2Proof.Machine

section
variable {k l l' : Ctrl} {c : Inst} {fr : Frame} {img : Image} {i : Mb} {budget : Nat} {a : TxStep}

/-- BUS writes nothing that the run of a `TX` is told by (R237). -/
theorem sending_busKept (h : k.sending Mailbox.contents c fr img i budget a l) (hk : l.busKept l') :
    k.sending Mailbox.contents c fr img i budget a l' := by
  obtain ⟨hphase, hsel, hfits, ⟨hi, hother⟩, htrace⟩ := h
  rw [← hk.seq] at hphase hsel hfits htrace
  exact ⟨hphase, hsel, hfits, ⟨(hk.contents i).trans hi, fun j hj => (hk.contents j).trans (hother j hj)⟩, htrace⟩

/-- Before T2 no mailbox is selected yet. -/
theorem sending_t1_any (h : k.sending Mailbox.contents c fr img i budget .t1 l) (j : Mb) :
    k.sending Mailbox.contents c fr img j budget .t1 l := by
  obtain ⟨hphase, -, hfits, ⟨hi, hother⟩, htrace⟩ := h
  have hall (m : Mb) : (l.mb m).contents = (k.mb m).contents := by
    by_cases hm : m = i
    · subst hm; exact hi
    · exact hother m hm
  exact ⟨hphase, fun hn => absurd rfl hn, hfits, ⟨hall j, fun m _ => hall m⟩, htrace⟩

/-- A mailbox that is done under the invariant is empty, with no abort request (R34, R219). -/
theorem flags_of_done {m : Mailbox} (hinv : m.inv = true) (hdone : m.done = true) :
    m.ti.txrq = false ∧ m.tme = true ∧ m.rqcp = true ∧ m.txok = true ∧ m.abrq = false := by
  obtain ⟨htme, habrq, -, -⟩ := (Mailbox.inv_iff m).1 hinv
  simp only [Mailbox.done, Bool.and_eq_true] at hdone
  obtain ⟨⟨hrqcp, htxok⟩, he⟩ := hdone
  have hq : m.ti.txrq = false := by simpa [he] using htme
  exact ⟨hq, he, hrqcp, htxok, by simpa [hq] using habrq⟩

/-- An abort request stands exactly as long as the request does (R219). -/
theorem abort_abrq {m : Mailbox} (hinv : m.inv = true) : m.abort.abrq = m.abort.ti.txrq := by
  obtain ⟨-, habrq, -, -⟩ := (Mailbox.inv_iff m).1 hinv
  simpa [Mailbox.abort] using habrq

/-- The reads of `TSR` before the end: T1 and the polls (R141, R148). -/
theorem record_count_read (c : Inst) (i : Mb) (img : Image) (n : Nat) :
    (TxStep.t8.record c i img n).count (.R (.tsr c)) = n + 1 := by
  cases hd : img.hasData <;> simp [TxStep.record, loadRecord, hd]

/-- No abort request before T9 (R149). -/
theorem record_count_abort (c : Inst) (i : Mb) (img : Image) (n : Nat) :
    (TxStep.t8.record c i img n).count (.F (.tsr c) [.abrq i]) = 0 := by
  cases hd : img.hasData <;> simp [TxStep.record, loadRecord, hd, List.count_replicate]

end

/-- Mailbox `i` is the one that the arbiter chooses at the issue if no other agent moves before the command (R142). -/
def State.choice (s : State) (c : Inst) (i : Mb) : Prop :=
  s.firstMoveOwn c = true → (s.ctrl c).firstEmpty = some i

/-- A `TX` of instance `c` issued at `s`, with the turns `ts` to come: it stands at T1 with an empty mailbox, and with the
mailboxes of the issue if the first move is its own; or it is on its way on the mailbox it chose; or it has ended. -/
structure State.txUnderBus (s : State) (c : Inst) (fr : Frame) (img : Image) (ts : List Turn) (u : State) : Prop where
  inv : u.inv = true
  cfg : u.cfg = s.cfg
  flt : u.flt = s.flt
  mcr : (u.ctrl c).mcr = (s.ctrl c).mcr
  btr : (u.ctrl c).btr = (s.ctrl c).btr
  at_ : (∃ i, (s.ctrl c).sending Mailbox.contents c fr img i s.cfg.txTickBudget .t1 (u.ctrl c) ∧
      ((u.ctrl c).mb i).tme = true ∧
      (s.firstMoveOwn c = true → ts = s.env ∧ ∀ j, (u.ctrl c).mb j = (s.ctrl c).mb j)) ∨
    (∃ i, s.choice c i ∧
      ((∃ a, a ≠ .t1 ∧ (s.ctrl c).sending Mailbox.contents c fr img i s.cfg.txTickBudget a (u.ctrl c)) ∨
        (s.ctrl c).sentOk Mailbox.contents c img i s.cfg.txTickBudget (u.ctrl c) ∨
        (((u.ctrl c).mb i).abrq = ((u.ctrl c).mb i).ti.txrq ∧
          (s.ctrl c).timedOut Mailbox.contents c img i s.cfg.txTickBudget (u.ctrl c))))

section
variable {s u : State} {c : Inst} {fr : Frame} {img : Image} {ts : List Turn}

/-- The budget is no 0 (U1). -/
theorem budget_pos (h : s.inv = true) : 0 < s.cfg.txTickBudget := by
  have hv := ((State.inv_iff s).1 h).1
  simp only [Config.valid, Bool.and_eq_true, decide_eq_true_eq] at hv
  exact hv.1.1

theorem txUnderBus_seq (henc : encodeFrame fr = some img) (h : s.txUnderBus c fr img ts u) (hb : u.busy c = true) :
    ∃ t, seqStep c u = .next t ∧ s.txUnderBus c fr img ts.tail t := by
  obtain ⟨hinv, hcfg, hflt, hmcr, hbtr, hat⟩ := h
  have hmove {i : Mb} {a : TxStep} (hi : s.choice c i) (hempty : a = .t1 → (u.ctrl c).firstEmpty = some i)
      (ha : (s.ctrl c).sending Mailbox.contents c fr img i s.cfg.txTickBudget a (u.ctrl c)) :
      ∃ t, seqStep c u = .next t ∧ s.txUnderBus c fr img ts.tail t := by
    obtain ⟨t, ht, hk, hstep⟩ := sending_step (by rw [hcfg]) respectsWrites_contents henc (hcfg ▸ budget_pos hinv) hempty ha
    refine ⟨t, ht, seqStep_inv hinv ht, hk.cfg.trans hcfg, hk.flt.trans hflt, hk.mcr.trans hmcr, hk.btr.trans hbtr,
      .inr ⟨i, hi, ?_⟩⟩
    obtain ⟨b, hne, hb', -⟩ | hok | ⟨-, hmb, he⟩ := hstep
    · exact .inl ⟨b, hne, hb'⟩
    · exact .inr (.inl hok)
    · exact .inr (.inr ⟨by rw [hmb]; exact abort_abrq ((State.inv_ctrl hinv c).1.mb i), he⟩)
  obtain ⟨i, ha, htme, hfirst⟩ | ⟨i, hi, ⟨a, hne, ha⟩ | hok | ⟨-, he⟩⟩ := hat
  · have hsome : (u.ctrl c).firstEmpty ≠ none := fun hn => by simp [firstEmpty_eq_none.1 hn i] at htme
    obtain ⟨j, hj⟩ := Option.ne_none_iff_exists'.1 hsome
    exact hmove (i := j) (fun hown => by rw [← firstEmpty_congr (hfirst hown).2, hj]) (fun _ => hj) (sending_t1_any ha j)
  · exact hmove hi (fun h1 => absurd h1 hne) ha
  · obtain ⟨-, n, -, he⟩ := hok
    exact absurd he.phase ((busy_iff _).1 hb)
  · exact absurd he.phase ((busy_iff _).1 hb)

/-- What a turn of BUS keeps, whether or not its step is taken (R237; log 9). -/
theorem busTurn_keeps (hinv : u.inv = true) (c d : Inst) (e : BusStep) :
    ((busStep d e u).getD u).inv = true ∧ ((busStep d e u).getD u).cfg = u.cfg ∧ ((busStep d e u).getD u).flt = u.flt ∧
      (u.ctrl c).busKept (((busStep d e u).getD u).ctrl c) := by
  cases he : busStep d e u with
  | none => exact ⟨hinv, rfl, rfl, .refl _⟩
  | some t => exact ⟨busStep_inv hinv he, (busStep_frame he).1, busStep_flt he, busStep_kept he c⟩

theorem txUnderBus_bus {d : Inst} {e : BusStep} (h : s.txUnderBus c fr img (.bus d e :: ts) u) (hb : u.busy c = true) :
    s.txUnderBus c fr img ts ((busStep d e u).getD u) := by
  obtain ⟨hinv, hcfg, hflt, hmcr, hbtr, hat⟩ := h
  obtain ⟨hinv', hcfg', hflt', hk⟩ := busTurn_keeps hinv c d e
  refine ⟨hinv', hcfg'.trans hcfg, hflt'.trans hflt, hk.mcr.trans hmcr, hk.btr.trans hbtr, ?_⟩
  obtain ⟨i, ha, htme, hfirst⟩ | ⟨i, hi, ⟨a, hne, ha⟩ | ⟨-, n, -, he⟩ | ⟨-, he⟩⟩ := hat
  · refine .inl ⟨i, sending_busKept ha hk, hk.tme i htme, fun hown => ?_⟩
    have hhead := firstMoveOwn_iff.1 hown
    simp [← (hfirst hown).1] at hhead
  · exact .inr ⟨i, hi, .inl ⟨a, hne, sending_busKept ha hk⟩⟩
  · exact absurd he.phase ((busy_iff _).1 hb)
  · exact absurd he.phase ((busy_iff _).1 hb)

end

/-- Settles O37: BUS keeps what the run is told by, so that the steps go on to the end whatever it does between them; there the
invariant of the machine gives the flags of the mailbox, and the record the numbers of polls and abort requests. -/
theorem txEndsWithOkOrTimeout : Obligations.TxEndsWithOkOrTimeout := by
  intro s c fr img hinv hcan hquiet ⟨i₀, hi₀⟩ henc
  rw [exec_tx fr hcan]
  have hstart : (s.upd c (·.start (.tx fr .t1))).inv = true := by
    simp only [State.canIssue, Bool.and_eq_true] at hcan
    obtain ⟨hr, -⟩ := State.inv_ctrl hinv c
    exact State.inv_upd hinv ((hr.start _).inv (by rw [phaseInv_tx rfl]; simp [hcan, Ctrl.txInv]))
  obtain ⟨t, ts', hrun, h, hend⟩ := runTurns_follows (Q := s.txUnderBus c fr img)
    (fun _ _ h hb _ => txUnderBus_seq henc h hb) (fun _ _ _ _ h hb => txUnderBus_bus h hb)
    (fun _ _ e ⟨hinv, hcfg, hflt, hmcr, hbtr, hat⟩ =>
      ⟨hinv, hcfg, hflt, by simpa using hmcr, by simpa using hbtr, by simpa using hat⟩) s.env
    (s.upd c (·.start (.tx fr .t1)))
    ⟨hstart, by simp, by simp, by simp, by simp, .inl ⟨i₀, by simpa using start_sending _ _ c fr img i₀ _, by simpa using hi₀,
      fun _ => ⟨rfl, by simp⟩⟩⟩ (by simpa [State.quiet] using hquiet)
  obtain ⟨hinv', -, hflt, hmcr, hbtr, ⟨i, ha, -⟩ | ⟨i, hi, hp⟩⟩ := h
  · exact absurd hend (tx_goes_on ha.phase)
  have hmbinv := (State.inv_ctrl hinv' c).1.mb i
  have hchoice (hown : s.firstMoveOwn c = true) := firstEmpty_eq_some.1 (hi hown)
  obtain ⟨a, -, ha⟩ | ⟨hdone, n, hn, he⟩ | ⟨habrq, he⟩ := hp
  · exact absurd hend (tx_goes_on ha.phase)
  · obtain ⟨hq, htme, hrqcp, htxok, habrq⟩ := flags_of_done hmbinv hdone
    refine ⟨t, i, hrun, (not_busy_iff _).2 he.phase, he.sel.symm, hchoice, holds_of_contents_load henc he.mb.1, he.mb.2, hflt,
      hmcr, hbtr, .inl ⟨he.resp, hq, htme, hrqcp, htxok, habrq, ?_, ?_⟩⟩
    · rw [he.trace, List.append_nil, record_count_read]; omega
    · rw [he.trace, List.append_nil, record_count_abort]
  · refine ⟨t, i, hrun, (not_busy_iff _).2 he.phase, he.sel.symm, hchoice, holds_of_contents_load henc he.mb.1, he.mb.2, hflt,
      hmcr, hbtr, .inr ⟨he.resp, ((Mailbox.inv_iff _).1 hmbinv).1, habrq, ?_, ?_⟩⟩
    · rw [he.trace, List.count_append, record_count_read]; rfl
    · rw [he.trace, List.count_append, record_count_abort]; simp

end Sys2Proof.Machine
end

section
/-! SUPPORT. One step of `RX`, said once (42_receive.md R161 to R166): what it leaves alone, and how the words it has read and
the accesses it has made stand before each step. -/

namespace Sys2Proof.Machine

/-! ## What a step of `RX` leaves alone (R28, R168) -/

/-- The controller `l` is `k` with the head of FIFO `f` released exactly when `gone`, and but for that with every register as
it was; the instance stays initialised or not. -/
structure Ctrl.rxMoved (k l : Ctrl) (f : Fifo) (gone : Bool) : Prop where
  mcr : l.mcr = k.mcr
  msr : l.msr = k.msr
  btr : l.btr = k.btr
  mb : ∀ i, l.mb i = k.mb i
  rf : ∀ g, l.rf g = if g = f ∧ gone = true then (k.rf g).release else k.rf g
  inited : l.seq.inited = k.seq.inited

/-- `Ctrl.rxMoved` at instance `c`, with the filter block, the parameters and the other instance as they were. -/
structure State.rxMoved (s t : State) (c : Inst) (f : Fifo) (gone : Bool) : Prop where
  flt : t.flt = s.flt
  cfg : t.cfg = s.cfg
  other : t.ctrl c.other = s.ctrl c.other
  own : (s.ctrl c).rxMoved (t.ctrl c) f gone

section
variable {s t u : State} {c : Inst} {f : Fifo} {gone : Bool}

theorem Ctrl.rxMoved.trans {k l m : Ctrl} (h : k.rxMoved l f false) (g : l.rxMoved m f gone) : k.rxMoved m f gone where
  mcr := g.mcr.trans h.mcr
  msr := g.msr.trans h.msr
  btr := g.btr.trans h.btr
  mb i := (g.mb i).trans (h.mb i)
  rf e := by simpa [h.rf] using g.rf e
  inited := g.inited.trans h.inited

theorem State.rxMoved.trans (h : s.rxMoved t c f false) (g : t.rxMoved u c f gone) : s.rxMoved u c f gone :=
  ⟨g.flt.trans h.flt, g.cfg.trans h.cfg, g.other.trans h.other, h.own.trans g.own⟩

theorem State.rxMoved.withEnv (h : s.rxMoved t c f gone) (e : List Turn) : s.rxMoved { t with env := e } c f gone :=
  ⟨h.flt, h.cfg, by simpa using h.other, by simpa using h.own⟩

theorem upd_rxMoved {g : Ctrl → Ctrl} (h : (s.ctrl c).rxMoved (g (s.ctrl c)) f gone) : s.rxMoved (s.upd c g) c f gone :=
  ⟨by simp, by simp, by simp, by simpa using h⟩

theorem afterRead_upd_rxMoved {r : Reg} {g : Ctrl → Ctrl} (h : (s.ctrl c).rxMoved (g ((s.ctrl c).log (.R r))) f gone) :
    s.rxMoved ((s.afterRead c r).upd c g) c f gone :=
  ⟨by simp, by simp, by simp [State.afterRead], by simpa using h⟩

/-- Before the first step of an `RX` nothing but the port and the sequencer has changed (R57). -/
theorem start_rxMoved (s : State) (c : Inst) (ph : Phase) (f : Fifo) : s.rxMoved (s.upd c (·.start ph)) c f false :=
  upd_rxMoved ⟨rfl, rfl, rfl, by simp, by simp, rfl⟩

/-- `Release` changes the FIFO alone (R164). -/
theorem releaseFifo_rxMoved (k : Ctrl) (c : Inst) (f : Fifo) : k.rxMoved (k.releaseFifo c f) f true := by
  constructor <;> simp [Ctrl.releaseFifo, rf_updRf]

end

/-! ## Issue and end of a run -/

/-- A command issued at an initialised instance is not rejected and begins at its first step (R57, R58). -/
theorem runCommand_inited {s : State} {c : Inst} (ph : Phase) (h : s.canIssue c = true) :
    runCommand ph s = runTurns c s.env (s.upd c (·.start ph)) := by
  simp only [State.canIssue, Bool.and_eq_true] at h
  obtain ⟨hidle, hinit⟩ := h
  rw [runCommand_idle ph hidle, upd_congr (h := (·.start ph)) (issue_inited ph hinit)]

/-- The first step of an `RX` is X1 (R57, R161). -/
theorem exec_rx {s : State} {c : Inst} (f : Fifo) (h : s.canIssue c = true) :
    exec (.rx f) s = runTurns c s.env (s.upd c (·.start (.rx f .x1))) :=
  runCommand_inited (.rx f .x1) h

/-- A running `RX` neither has ended nor waits (R251). -/
theorem rx_goes_on {s : State} {c : Inst} {f : Fifo} {a : RxStep} (hp : (s.ctrl c).seq.phase = .rx f a) :
    ¬ (s.busy c = false ∨ s.waiting c = true) := by
  simp [State.busy_def, State.waiting, Seq.busy, hp]

theorem seqStep_rx {s : State} {c : Inst} {f : Fifo} {a : RxStep} (hp : (s.ctrl c).seq.phase = .rx f a) :
    seqStep c s = rxStep c f a s := by
  simp only [seqStep, hp]

/-! ## Step X1 (R161, R162) -/

theorem checkPending_of_nil {k : Ctrl} {f : Fifo} (h : (k.rf f).queue = []) (v : Word) :
    k.checkPending f v = (k.updLatch ({ · with rf := v })).ret .bufferExhausted :=
  if_pos (by simp [RxFifo.fmp, h])

theorem checkPending_of_cons {k : Ctrl} {f : Fifo} {e : Entry} {q : List Entry} (h : (k.rf f).queue = e :: q) (v : Word) :
    k.checkPending f v = (k.updLatch ({ · with rf := v })).goto (.rx f .x2) :=
  if_neg (by simp [RxFifo.fmp, h])

/-! ## What stands before each step -/

/-- The five reads of R83, X1 to X5. -/
def readRecord (c : Inst) (f : Fifo) : List Access :=
  [.R (.rf c f), .R (.ri c f), .R (.rdt c f), .R (.rdl c f), .R (.rdh c f)]

/-- The accesses before a step of `RX` (R83, R161). -/
def RxStep.record (c : Inst) (f : Fifo) : RxStep → List Access
  | .x1 => []
  | .x2 => [.R (.rf c f)]
  | .x3 => [.R (.rf c f), .R (.ri c f)]
  | .x4 => [.R (.rf c f), .R (.ri c f), .R (.rdt c f)]
  | .x5 => [.R (.rf c f), .R (.ri c f), .R (.rdt c f), .R (.rdl c f)]
  | .x6 | .x7 _ => readRecord c f

/-- The controller `k` of instance `c` is before step `a` of an `RX` of the entry `e`, which heads FIFO `f` (R163). -/
structure Ctrl.reading (k : Ctrl) (c : Inst) (f : Fifo) (e : Entry) (a : RxStep) : Prop where
  phase : k.seq.phase = .rx f a
  head : ∃ q, (k.rf f).queue = e :: q
  latch : k.seq.latch.agrees e a
  trace : k.seq.trace = a.record c f

/-- What `RX` answers to the entry (R165, R166). -/
def Entry.answer (e : Entry) : Resp :=
  match decodeFrame e.ri e.rdt e.rdl e.rdh with
  | none => statusResp .invalidFrame
  | some fr => frameResp fr

/-- Whether `RX` releases the entry (R164, R166), under a value of `RX_RELEASE_ON_INVALID`. -/
def Entry.goes (e : Entry) (onInvalid : Bool) : Bool := (decodeFrame e.ri e.rdt e.rdl e.rdh).isSome || onInvalid

/-- The `RX` of entry `e` has ended: the sixth access, the release, was made exactly when the entry goes (R83, R164, R166). -/
structure Ctrl.readEnded (k : Ctrl) (c : Inst) (f : Fifo) (e : Entry) (onInvalid : Bool) : Prop where
  phase : k.seq.phase = .idle
  resp : k.resp = e.answer
  trace : k.seq.trace = readRecord c f ++ if e.goes onInvalid then [.F (.rf c f) [.rfom, .fovr, .full]] else []
  flags : e.goes onInvalid = true → (k.rf f).full = false ∧ (k.rf f).fovr = false

/-- What one step of an `RX` of entry `e` makes of `s`: it goes on, with every register as it was, or it ends. -/
def State.readStep (s t : State) (c : Inst) (f : Fifo) (e : Entry) : Prop :=
  (∃ b, s.rxMoved t c f false ∧ (t.ctrl c).reading c f e b) ∨
    (s.rxMoved t c f (e.goes s.cfg.rxReleaseOnInvalid) ∧ (t.ctrl c).readEnded c f e s.cfg.rxReleaseOnInvalid)

section
variable {s : State} {c : Inst} {f : Fifo} {e : Entry} {a : RxStep}

/-- A read of a register whose word is latched leads to the step before which that register has been read (R163). -/
theorem regRead_reading (b : RxStep) {r : Reg} {v : Word} (w : Word → Ctrl → Ctrl) {g : Latch → Latch}
    (h : (s.ctrl c).reading c f e a) (hview : s.regView (Config.freeWord s.draws) r = some v)
    (hw : w v ((s.ctrl c).log (.R r)) = (((s.ctrl c).log (.R r)).updLatch g).goto (.rx f b))
    (hl : (g (s.ctrl c).seq.latch).agrees e b) (hrec : a.record c f ++ [.R r] = b.record c f) :
    ∃ t, (regRead c r s fun v t => .next (t.upd c (w v))) = .next t ∧ s.readStep t c f e := by
  obtain ⟨-, hhead, -, htrace⟩ := h
  refine ⟨_, regRead_some hview, .inl ⟨b, afterRead_upd_rxMoved ?_, ?_⟩⟩
  · rw [hw]
    exact ⟨rfl, rfl, rfl, by simp, by simp, rfl⟩
  · rw [ctrl_upd_same, afterRead_ctrl, hw]
    exact ⟨rfl, by simpa using hhead, hl, by simpa [htrace] using hrec⟩

/-- The end of the command, at X6 or X7, with the release exactly when the entry goes (R164 to R166). -/
theorem end_reading {t : State} (htrace : (s.ctrl c).seq.trace = readRecord c f)
    (ht : t = s.upd c fun k =>
      (if e.goes s.cfg.rxReleaseOnInvalid then k.releaseFifo c f else k).finish e.answer) : s.readStep t c f e := by
  subst ht
  refine .inr ⟨upd_rxMoved ?_, ?_⟩
  · split
    next hgo =>
      obtain ⟨hmcr, hmsr, hbtr, hmb, hrf, hinit⟩ := releaseFifo_rxMoved (s.ctrl c) c f
      rw [hgo]
      exact ⟨hmcr, hmsr, hbtr, by simpa using hmb, by simpa using hrf, hinit⟩
    next hgo =>
      rw [Bool.not_eq_true] at hgo
      rw [hgo]
      exact ⟨rfl, rfl, rfl, by simp, by simp, rfl⟩
  · rw [ctrl_upd_same]
    cases hgo : e.goes s.cfg.rxReleaseOnInvalid <;> constructor <;>
      simp [Ctrl.releaseFifo, RxFifo.release, htrace, hgo]

/-- A step of `RX` before its end has a next state, since the window has a head to show (R25, R163), and leads to the next
step with every register as it was; X6 on an invalid frame and X7 end the command. -/
theorem reading_step (h : (s.ctrl c).reading c f e a) : ∃ t, seqStep c s = .next t ∧ s.readStep t c f e := by
  obtain ⟨hphase, ⟨q, hq⟩, hl, htrace⟩ := id h
  have hwindow {field : Entry → Word} : ((s.ctrl c).rf f).queue.head?.map field = some (field e) := by rw [hq]; rfl
  rw [seqStep_rx hphase]
  cases a with
  | x1 =>
    exact regRead_reading .x2 (fun v k => k.checkPending f v) h rfl (checkPending_of_cons (by simpa using hq) _) trivial rfl
  | x2 => exact regRead_reading .x3 _ h hwindow rfl rfl rfl
  | x3 => exact regRead_reading .x4 _ h hwindow rfl ⟨hl, rfl⟩ rfl
  | x4 =>
    obtain ⟨hri, hrdt⟩ := hl
    exact regRead_reading .x5 _ h hwindow rfl ⟨hri, hrdt, rfl⟩ rfl
  | x5 =>
    obtain ⟨hri, hrdt, hrdl⟩ := hl
    exact regRead_reading .x6 _ h hwindow rfl ⟨hri, hrdt, hrdl, rfl⟩ rfl
  | x6 =>
    obtain ⟨hri, hrdt, hrdl, hrdh⟩ := hl
    cases hd : decodeFrame e.ri e.rdt e.rdl e.rdh with
    | some fr =>
      refine ⟨s.upd c (·.goto (.rx f (.x7 fr))), by simp only [rxStep, hri, hrdt, hrdl, hrdh, hd],
        .inl ⟨.x7 fr, upd_rxMoved ⟨rfl, rfl, rfl, by simp, by simp, rfl⟩, ?_⟩⟩
      rw [ctrl_upd_same]
      exact ⟨rfl, ⟨q, by simpa using hq⟩, hd, htrace⟩
    | none =>
      refine ⟨_, ?_, end_reading htrace rfl⟩
      simp [rxStep, hri, hrdt, hrdl, hrdh, hd, Entry.goes, Entry.answer, Ctrl.ret]
  | x7 fr =>
    have hd : decodeFrame e.ri e.rdt e.rdl e.rdh = some fr := hl
    refine ⟨_, ?_, end_reading htrace rfl⟩
    simp [rxStep, hd, Entry.goes, Entry.answer]

end

end Sys2Proof.Machine
end

section
/-! SUPPORT. The run of `RX`: of an empty FIFO, and of one with an entry at its head, under any moves of BUS (42_receive.md
R160 to R168). -/

namespace Sys2Proof.Machine

/-! ## An empty FIFO (R162) -/

/-- An `RX` of instance `c` issued at `s` makes its first move on an empty FIFO, or has failed after it. -/
def State.rxStarved (s : State) (c : Inst) (f : Fifo) (ts : List Turn) (u : State) : Prop :=
  s.rxMoved u c f false ∧
    (((u.ctrl c).seq.phase = .rx f .x1 ∧ (u.ctrl c).seq.trace = [] ∧ ∀ x ∈ ts.head?, x = .seq c) ∨
      ((u.ctrl c).seq.phase = .idle ∧ (u.ctrl c).resp = ⟨1, 0, 0, 0, 0⟩ ∧ (u.ctrl c).seq.trace = [.R (.rf c f)]))

section
variable {s u : State} {c : Inst} {f : Fifo} {ts : List Turn}

theorem rxStarved_seq (hempty : ((s.ctrl c).rf f).queue = []) (h : s.rxStarved c f ts u) (hb : u.busy c = true) :
    ∃ t, seqStep c u = .next t ∧ s.rxStarved c f ts.tail t := by
  obtain ⟨hm, ⟨hphase, htrace, -⟩ | ⟨hphase, -⟩⟩ := h
  · have hq : (((u.ctrl c).log (.R (.rf c f))).rf f).queue = [] := by simpa [hm.own.rf] using hempty
    have hfail := checkPending_of_nil hq
    rw [seqStep_rx hphase]
    refine ⟨_, rfl, hm.trans (afterRead_upd_rxMoved ?_), .inr ?_⟩
    · rw [hfail]
      exact ⟨rfl, rfl, rfl, by simp, by simp, rfl⟩
    · rw [ctrl_upd_same, ← State.afterRead, afterRead_ctrl, hfail]
      simp [htrace, Status.code]
  · exact absurd hphase ((busy_iff _).1 hb)

theorem rxStarved_bus {d : Inst} {e : BusStep} (h : s.rxStarved c f (.bus d e :: ts) u) : u.busy c = false := by
  obtain ⟨-, ⟨-, -, hhead⟩ | ⟨hphase, -⟩⟩ := h
  · simp at hhead
  · exact (not_busy_iff _).2 hphase

end

/-- Settles O40: the first move is X1, which finds the queue empty and ends the command. -/
theorem rxOfEmptyFifoFails : Obligations.RxOfEmptyFifoFails := by
  intro s c f hcan hquiet hfirst hempty
  rw [exec_rx f hcan]
  obtain ⟨t, ts', hrun, ⟨hm, hp⟩, hend⟩ := runTurns_follows (Q := s.rxStarved c f)
    (fun _ _ h hb _ => rxStarved_seq hempty h hb)
    (fun _ _ _ _ h hb => absurd hb (by simp [rxStarved_bus h]))
    (fun _ _ e ⟨hm, hp⟩ => ⟨hm.withEnv e, by simpa using hp⟩) s.env (s.upd c (·.start (.rx f .x1)))
    ⟨start_rxMoved s c _ f, .inl ⟨by simp, by simp, firstMoveOwn_iff.1 hfirst⟩⟩ (by simpa [State.quiet] using hquiet)
  obtain ⟨hphase, -⟩ | ⟨hphase, hresp, htrace⟩ := hp
  · exact absurd hend (rx_goes_on hphase)
  · obtain ⟨hmcr, hmsr, hbtr, hmb, hrf, -⟩ := hm.own
    exact ⟨t, hrun, (not_busy_iff _).2 hphase, hresp, htrace, hm.flt, hm.other, hmcr, hmsr, hbtr, hmb, by simpa using hrf⟩

/-! ## An entry at the head (R161 to R168) -/

/-- What is left of the state `s` at the issue of an `RX` of FIFO `f` while BUS alone has moved beside it, with the turns `ts`
to come (R28, R237): of FIFO `f` no more than the head has gone, and if there were no turns at all then nothing else has
changed. -/
structure State.rxKept (s : State) (c : Inst) (f : Fifo) (gone : Bool) (ts : List Turn) (u : State) : Prop where
  flt : u.flt = s.flt
  cfg : u.cfg = s.cfg
  mcr : (u.ctrl c).mcr = (s.ctrl c).mcr
  btr : (u.ctrl c).btr = (s.ctrl c).btr
  contents : ∀ i, ((u.ctrl c).mb i).contents = ((s.ctrl c).mb i).contents
  length : ((s.ctrl c).rf f).queue.length ≤ ((u.ctrl c).rf f).queue.length + gone.toNat
  alone : s.env = [] → ts = [] ∧ s.rxMoved u c f gone

/-- An `RX` of the entry `e` is on its way, or it has ended. -/
def State.rxUnderBus (s : State) (c : Inst) (f : Fifo) (e : Entry) (ts : List Turn) (u : State) : Prop :=
  (s.rxKept c f false ts u ∧ ∃ a, (u.ctrl c).reading c f e a) ∨
    (s.rxKept c f (e.goes s.cfg.rxReleaseOnInvalid) ts u ∧ (u.ctrl c).readEnded c f e s.cfg.rxReleaseOnInvalid)

section
variable {s u t : State} {c : Inst} {f : Fifo} {e : Entry} {gone : Bool} {ts : List Turn}

theorem rxKept_start (s : State) (c : Inst) (f : Fifo) (ph : Phase) : s.rxKept c f false s.env (s.upd c (·.start ph)) :=
  ⟨by simp, by simp, by simp, by simp, by simp, by simp, fun h => ⟨h, start_rxMoved s c ph f⟩⟩

theorem rxKept_withEnv (h : s.rxKept c f gone ts u) (env : List Turn) : s.rxKept c f gone ts { u with env := env } := by
  obtain ⟨hflt, hcfg, hmcr, hbtr, hcont, hlen, halone⟩ := h
  exact ⟨hflt, hcfg, by simpa using hmcr, by simpa using hbtr, by simpa using hcont, by simpa using hlen,
    fun hs => ⟨(halone hs).1, (halone hs).2.withEnv env⟩⟩

/-- The command's own move (R28, R168). -/
theorem rxKept_moved (h : s.rxKept c f false ts u) (hm : u.rxMoved t c f gone) : s.rxKept c f gone ts.tail t := by
  obtain ⟨hflt, hcfg, hmcr, hbtr, hcont, hlen, halone⟩ := h
  have hown := hm.own
  refine ⟨hm.flt.trans hflt, hm.cfg.trans hcfg, hown.mcr.trans hmcr, hown.btr.trans hbtr,
    fun i => by rw [hown.mb, hcont], hlen.trans ?_, fun hs => ?_⟩
  · rw [hown.rf]
    cases gone with
    | true => simp [RxFifo.release, le_tsub_add]
    | false => simp
  · obtain ⟨rfl, hsu⟩ := halone hs
    exact ⟨rfl, hsu.trans hm⟩

/-- A move of BUS (R237). -/
theorem rxKept_bus {d : Inst} {b : BusStep} (h : s.rxKept c f false (.bus d b :: ts) u) (hflt' : t.flt = u.flt)
    (hcfg' : t.cfg = u.cfg) (hk : (u.ctrl c).busKept (t.ctrl c)) : s.rxKept c f false ts t := by
  obtain ⟨hflt, hcfg, hmcr, hbtr, hcont, hlen, halone⟩ := h
  exact ⟨hflt'.trans hflt, hcfg'.trans hcfg, hk.mcr.trans hmcr, hk.btr.trans hbtr,
    fun i => (hk.contents i).trans (hcont i), hlen.trans (hk.length f), fun hs => nomatch (halone hs).1⟩

/-- BUS writes nothing that the run of an `RX` is told by, and leaves the head where it is (R163, R237). -/
theorem reading_busKept {k l : Ctrl} {a : RxStep} (h : k.reading c f e a) (hk : k.busKept l) : l.reading c f e a := by
  obtain ⟨hphase, ⟨q, hq⟩, hl, htrace⟩ := h
  rw [← hk.seq] at hphase hl htrace
  exact ⟨hphase, hk.head f e q hq, hl, htrace⟩

theorem rxUnderBus_seq (h : s.rxUnderBus c f e ts u) (hb : u.busy c = true) :
    ∃ t, seqStep c u = .next t ∧ s.rxUnderBus c f e ts.tail t := by
  obtain ⟨hk, a, ha⟩ | ⟨-, he⟩ := h
  · obtain ⟨t, ht, hstep⟩ := reading_step ha
    rw [State.readStep, hk.cfg] at hstep
    refine ⟨t, ht, hstep.imp ?_ ?_⟩
    · exact fun ⟨b, hm, hread⟩ => ⟨rxKept_moved hk hm, b, hread⟩
    · exact fun ⟨hm, he⟩ => ⟨rxKept_moved hk hm, he⟩
  · exact absurd he.phase ((busy_iff _).1 hb)

theorem rxUnderBus_bus {d : Inst} {b : BusStep} (h : s.rxUnderBus c f e (.bus d b :: ts) u) (hb : u.busy c = true) :
    s.rxUnderBus c f e ts ((busStep d b u).getD u) := by
  obtain ⟨hk, a, ha⟩ | ⟨-, he⟩ := h
  · cases hs : busStep d b u with
    | none => exact .inl ⟨rxKept_bus hk rfl rfl (.refl _), a, ha⟩
    | some t =>
      have hkept := busStep_kept hs c
      exact .inl ⟨rxKept_bus hk (busStep_flt hs) (busStep_frame hs).1 hkept, a, reading_busKept ha hkept⟩
  · exact absurd he.phase ((busy_iff _).1 hb)

end

/-- An `RX` of a FIFO with the entry `e` at its head comes to its end, whatever BUS does meanwhile, and answers that entry
(R161 to R167). -/
theorem exec_rx_of_head {s : State} {c : Inst} {f : Fifo} {e : Entry} {q : List Entry} (hcan : s.canIssue c = true)
    (hquiet : s.quiet c = true) (hq : ((s.ctrl c).rf f).queue = e :: q) :
    ∃ t ts, exec (.rx f) s = .next t ∧ s.rxKept c f (e.goes s.cfg.rxReleaseOnInvalid) ts t ∧
      (t.ctrl c).readEnded c f e s.cfg.rxReleaseOnInvalid := by
  rw [exec_rx f hcan]
  obtain ⟨t, ts, hrun, ⟨-, a, ha⟩ | ⟨hk, he⟩, hend⟩ := runTurns_follows (Q := s.rxUnderBus c f e)
    (fun _ _ h hb _ => rxUnderBus_seq h hb) (fun _ _ _ _ h hb => rxUnderBus_bus h hb)
    (fun _ _ env h => h.imp (fun ⟨hk, hr⟩ => ⟨rxKept_withEnv hk env, by simpa using hr⟩)
      fun ⟨hk, he⟩ => ⟨rxKept_withEnv hk env, by simpa using he⟩) s.env (s.upd c (·.start (.rx f .x1)))
    (.inl ⟨rxKept_start s c f _, .x1, by rw [ctrl_upd_same]; exact ⟨rfl, ⟨q, by simpa using hq⟩, trivial, rfl⟩⟩)
    (by simpa [State.quiet] using hquiet)
  · exact absurd hend (rx_goes_on ha.phase)
  · exact ⟨t, ts, hrun, hk, he⟩

section
variable {e : Entry} {fr : Frame}

theorem answer_of_frame (h : decodeFrame e.ri e.rdt e.rdl e.rdh = some fr) : e.answer = frameResp fr := by
  simp [Entry.answer, h]

theorem goes_of_frame (h : decodeFrame e.ri e.rdt e.rdl e.rdh = some fr) (onInvalid : Bool) : e.goes onInvalid = true := by
  simp [Entry.goes, h]

theorem answer_of_invalid (h : decodeFrame e.ri e.rdt e.rdl e.rdh = none) : e.answer = ⟨3, 0, 0, 0, 0⟩ := by
  simp [Entry.answer, h, statusResp, Status.code]

theorem goes_of_invalid (h : decodeFrame e.ri e.rdt e.rdl e.rdh = none) (onInvalid : Bool) :
    e.goes onInvalid = onInvalid := by
  simp [Entry.goes, h]

end

/-- With no turn in the schedule only the command moves. -/
theorem quiet_of_env_nil {s : State} {c : Inst} (h : s.env = []) : s.quiet c = true := by simp [State.quiet, h]

/-- The FIFO after a run in which only the command moved (R164, R166). -/
theorem rxMoved_rf {s t : State} {c : Inst} {f : Fifo} {e : Entry} {q : List Entry} {gone : Bool}
    (hm : s.rxMoved t c f gone) (hq : ((s.ctrl c).rf f).queue = e :: q) :
    (t.ctrl c).rf f = if gone then ⟨q, false, false⟩ else (s.ctrl c).rf f := by
  rw [hm.own.rf]
  cases gone <;> simp [RxFifo.release, hq]

/-- Settles O41: the steps go on to the end under any moves of BUS, which never touch the head, and the frame is the one
the entry at the issue decodes to. -/
theorem rxReturnsTheHeadOfItsFifo : Obligations.RxReturnsTheHeadOfItsFifo := by
  intro s c f e q fr hcan hquiet hq hd
  obtain ⟨t, ts, hrun, hk, he⟩ := exec_rx_of_head hcan hquiet hq
  obtain ⟨hphase, hresp, htrace, hflags⟩ := he
  obtain ⟨hfull, hfovr⟩ := hflags (goes_of_frame hd _)
  have hlen := hk.length
  rw [goes_of_frame hd] at htrace hlen
  refine ⟨t, hrun, (not_busy_iff _).2 hphase, hresp.trans (answer_of_frame hd), htrace, hfull, hfovr, ?_, hk.flt, hk.mcr,
    hk.btr, hk.contents⟩
  simpa [hq] using hlen

/-- Settles O42: the five reads are made and `DECODE` rejects the entry at X6, which releases it if the parameter says so. -/
theorem rxOfBadEntryFails : Obligations.RxOfBadEntryFails := by
  intro s c f e q hcan henv hq hrtr hlen
  have hd := decodeFrame_long e.rdl e.rdh hrtr hlen
  obtain ⟨t, ts, hrun, hk, hphase, hresp, htrace, -⟩ := exec_rx_of_head hcan (quiet_of_env_nil henv) hq
  obtain ⟨-, hm⟩ := hk.alone henv
  rw [goes_of_invalid hd] at htrace hm
  exact ⟨t, hrun, (not_busy_iff _).2 hphase, hresp.trans (answer_of_invalid hd), htrace, rxMoved_rf hm hq⟩

/-- Settles O43: with no other agent the steps before X7 change no register, and X7 releases the head. -/
theorem rxRemovesOneEntryAlone : Obligations.RxRemovesOneEntryAlone := by
  intro s c f e q fr hcan henv hq hd
  obtain ⟨t, ts, hrun, hk, -⟩ := exec_rx_of_head hcan (quiet_of_env_nil henv) hq
  obtain ⟨-, hm⟩ := hk.alone henv
  rw [goes_of_frame hd] at hm
  obtain ⟨hmcr, hmsr, hbtr, hmb, hrf, hinit⟩ := hm.own
  simp only [State.canIssue, Bool.and_eq_true] at hcan
  refine ⟨t, hrun, hm.flt, hm.other, rxMoved_rf hm hq, fun g hg => ?_, hmb, hmcr, hmsr, hbtr, hinit.trans hcan.2⟩
  simp [hrf, hg]

end Sys2Proof.Machine
end

section
/-! SUPPORT. `CFGFILT` (43_filter.md R176 to R184): one of its steps, said once, and its run along a list of steps under any
moves of BUS. -/

namespace Sys2Proof.Machine

/-! ## One step of `CFGFILT` -/

/-- What a step of `CFGFILT` makes of the filter block (R176), with `bad` for a combination that the parameter rejects. -/
@[simp] def FilterStep.write (op : FilterOp) (bad : Bool) : FilterStep → Filters → Filters
  | .f0, g => g
  | .f1, g => { g with finit := true }
  | .f2, g => if bad then { g with finit := false } else g
  | .f3, g => { g with fa1r := setBit g.fa1r op.bank.toNat false }
  | .f4, g => { g with fs1r := setBit g.fs1r op.bank.toNat (decide (op.scale = .s32)) }
  | .f5, g => { g with fm1r := setBit g.fm1r op.bank.toNat (decide (op.mode = .list)) }
  | .f6, g => { g with ffa1r := setBit g.ffa1r op.bank.toNat (decide (op.fifo = .f1)) }
  | .f7a, g => { g with fr1 := setReg g.fr1 op.bank.toNat (fr1Value op) }
  | .f7b, g => { g with fr2 := setReg g.fr2 op.bank.toNat (fr2Value op) }
  | .f8, g => if op.enable then { g with fa1r := setBit g.fa1r op.bank.toNat true } else g
  | .f9, g => { g with finit := false }

/-- The accesses that a step of `CFGFILT` makes (R83, R176). -/
@[simp] def FilterStep.accesses (op : FilterOp) (bad : Bool) : FilterStep → List Access
  | .f0 => []
  | .f1 | .f9 => [.F .fmr [.finit]]
  | .f2 => if bad then [.F .fmr [.finit]] else []
  | .f3 => [.F .fa1r [.bank op.bank.toNat]]
  | .f4 => [.F .fs1r [.bank op.bank.toNat]]
  | .f5 => [.F .fm1r [.bank op.bank.toNat]]
  | .f6 => [.F .ffa1r [.bank op.bank.toNat]]
  | .f7a => [.W (.fr1 op.bank.toNat)]
  | .f7b => [.W (.fr2 op.bank.toNat)]
  | .f8 => if op.enable then [.F .fa1r [.bank op.bank.toNat]] else []

/-- Where a step of `CFGFILT` leads (R176 to R178): to the end of the command with a status, or to the next step. -/
@[simp] def FilterStep.next (op : FilterOp) (bad : Bool) : FilterStep → Except Status FilterStep
  | .f0 => if nBanks ≤ op.bank.toNat then .error .configurationFailed else .ok .f1
  | .f1 => .ok .f2
  | .f2 => if bad then .error .configurationFailed else .ok .f3
  | .f3 => .ok .f4
  | .f4 => .ok .f5
  | .f5 => .ok .f6
  | .f6 => .ok .f7a
  | .f7a => .ok .f7b
  | .f7b => .ok .f8
  | .f8 => .ok .f9
  | .f9 => .error .ok

/-- The steps that need filter-bank initialisation mode (R276). -/
@[simp] def FilterStep.needsFinit : FilterStep → Bool
  | .f4 | .f5 | .f6 | .f7a | .f7b => true
  | _ => false

/-- The controller has ended its command with that status, or its `CFGFILT` stands at that step. -/
@[simp] def Ctrl.filterAt (l : Ctrl) (op : FilterOp) : Except Status FilterStep → Prop
  | .error st => l.seq.phase = .idle ∧ l.resp = ⟨st.code, 0, 0, 0, 0⟩
  | .ok a => l.seq.phase = .filter op a

/-- The combination is one that the parameter `UNSUPPORTED_COMBO` rejects (R178). -/
def comboRejected (g : Config) (op : FilterOp) : Bool := g.unsupportedCombo.contains (op.scale, op.mode)

/-- Step `a` of `CFGFILT` at instance `c` makes `t` of `s`, by the tables above. -/
structure State.filterStepped (s t : State) (c : Inst) (op : FilterOp) (a : FilterStep) : Prop where
  flt : t.flt = a.write op (comboRejected s.cfg op) s.flt
  trace : (t.ctrl c).seq.trace = (s.ctrl c).seq.trace ++ a.accesses op (comboRejected s.cfg op)
  next : (t.ctrl c).filterAt op (a.next op (comboRejected s.cfg op))

section
variable {s : State} {c : Inst} {op : FilterOp} {a : FilterStep}

theorem seqStep_filter (hp : (s.ctrl c).seq.phase = .filter op a) : seqStep c s = filterStep c op a s := by
  simp only [seqStep, hp]

/-- A running `CFGFILT` neither has ended nor waits (R251). -/
theorem filter_goes_on (hp : (s.ctrl c).seq.phase = .filter op a) : ¬ (s.busy c = false ∨ s.waiting c = true) := by
  simp [State.busy_def, State.waiting, Seq.busy, hp]

theorem writeInInit_of_finit {t : State} (h : s.flt.finit = true) : writeInInit s t = .next t := if_pos h

/-- A step of `CFGFILT` that meets filter-bank initialisation mode where it needs it has a next state, as the tables say. -/
theorem filterStep_steps (hp : (s.ctrl c).seq.phase = .filter op a) (hfinit : a.needsFinit = true → s.flt.finit = true) :
    ∃ t, seqStep c s = .next t ∧ s.filterStepped t c op a := by
  rw [seqStep_filter hp]
  cases a with
  | f0 =>
    by_cases hbank : nBanks ≤ op.bank.toNat
    · exact ⟨_, if_pos hbank, by constructor <;> simp [hbank]⟩
    · exact ⟨_, if_neg hbank, by constructor <;> simp [hbank]⟩
  | f2 =>
    by_cases hbad : comboRejected s.cfg op = true
    · exact ⟨_, if_pos hbad, by constructor <;> simp [hbad]⟩
    · exact ⟨_, if_neg hbad, by constructor <;> simp [hbad]⟩
  | f8 =>
    by_cases hon : op.enable = true
    · exact ⟨_, if_pos hon, by constructor <;> simp [hon]⟩
    · exact ⟨_, if_neg hon, by constructor <;> simp [hon]⟩
  | f1 | f3 | f9 => exact ⟨_, rfl, by constructor <;> simp⟩
  | f4 | f5 | f6 | f7a | f7b => exact ⟨_, writeInInit_of_finit (hfinit rfl), by constructor <;> simp⟩

end

/-! ## The run along a list of steps -/

/-- The first step of the list, or the end of the command with a status when none is left. -/
@[simp] def firstFilterStep (st : Status) : List FilterStep → Except Status FilterStep
  | [] => .error st
  | a :: _ => .ok a

/-- From the filter block `g` the steps of the list lead from one to the next and the last one to the end with status `st`,
and each finds filter-bank initialisation mode if it needs it (R176, R276). -/
def filterFollows (op : FilterOp) (bad : Bool) (st : Status) : List FilterStep → Filters → Prop
  | [], _ => True
  | a :: rest, g =>
    (a.needsFinit = true → g.finit = true) ∧ a.next op bad = firstFilterStep st rest ∧
      filterFollows op bad st rest (a.write op bad g)

/-- The filter block after the steps of a list. -/
def filterApplied (op : FilterOp) (bad : Bool) (steps : List FilterStep) (g : Filters) : Filters :=
  steps.foldl (fun h a => a.write op bad h) g

/-- The accesses of the steps of a list. -/
def filterRecorded (op : FilterOp) (bad : Bool) (steps : List FilterStep) : List Access :=
  steps.flatMap (·.accesses op bad)

/-- A `CFGFILT` of instance `c` that is to leave the filter block `g` and the access record `tr`: the steps `rest` are left,
and what they do to the filter block and to the record gives these. -/
structure State.filterLeft (s : State) (c : Inst) (op : FilterOp) (st : Status) (g : Filters) (tr : List Access)
    (rest : List FilterStep) : Prop where
  at_ : (s.ctrl c).filterAt op (firstFilterStep st rest)
  follows : filterFollows op (comboRejected s.cfg op) st rest s.flt
  flt : filterApplied op (comboRejected s.cfg op) rest s.flt = g
  trace : (s.ctrl c).seq.trace ++ filterRecorded op (comboRejected s.cfg op) rest = tr

section
variable {s t : State} {c : Inst} {op : FilterOp} {st : Status} {g : Filters} {tr : List Access} {rest : List FilterStep}

theorem filterLeft_seq (h : s.filterLeft c op st g tr rest) (hb : s.busy c = true) :
    ∃ t, seqStep c s = .next t ∧ ∃ rest', t.filterLeft c op st g tr rest' := by
  obtain ⟨hat, hfollows, hflt, htrace⟩ := h
  cases rest with
  | nil => exact absurd hat.1 ((busy_iff _).1 hb)
  | cons a rest =>
    obtain ⟨hfinit, hnext, hrest⟩ := hfollows
    obtain ⟨t, ht, hs⟩ := filterStep_steps hat hfinit
    have hcfg : t.cfg = s.cfg := (seqStep_frame ht).1
    refine ⟨t, ht, rest, hnext ▸ hs.next, ?_, ?_, ?_⟩
    · rw [hcfg, hs.flt]; exact hrest
    · rw [hcfg, hs.flt]; exact hflt
    · rw [hcfg, hs.trace, List.append_assoc]; exact htrace

/-- BUS writes nothing that the run of a `CFGFILT` is told by (R237). -/
theorem filterLeft_bus {d : Inst} {e : BusStep} (h : s.filterLeft c op st g tr rest) (he : busStep d e s = some t) :
    t.filterLeft c op st g tr rest := by
  obtain ⟨hat, hfollows, hflt, htrace⟩ := h
  have hk := busStep_kept he c
  have hcfg : t.cfg = s.cfg := (busStep_frame he).1
  refine ⟨?_, by rwa [hcfg, busStep_flt he], by rwa [hcfg, busStep_flt he], by rwa [hcfg, hk.seq]⟩
  unfold Ctrl.filterAt
  rw [hk.seq, hk.resp]
  exact hat

theorem filterLeft_withEnv (h : s.filterLeft c op st g tr rest) (e : List Turn) :
    ({ s with env := e } : State).filterLeft c op st g tr rest := by
  obtain ⟨hat, hfollows, hflt, htrace⟩ := h
  exact ⟨by simpa using hat, hfollows, hflt, by simpa using htrace⟩

end

/-- A `CFGFILT` whose steps from F0 to its end are `rest` comes to that end, whatever BUS does meanwhile (R176). -/
theorem exec_cfgfilt_of_follows {s : State} {c : Inst} {op : FilterOp} {bad : Bool} {st : Status} {rest : List FilterStep}
    (hcan : s.canIssue c = true) (hquiet : s.quiet c = true) (hbad : comboRejected s.cfg op = bad)
    (hfollows : filterFollows op bad st (.f0 :: rest) s.flt) :
    ∃ t, exec (.cfgfilt op) s = .next t ∧ t.busy c = false ∧ (t.ctrl c).resp = ⟨st.code, 0, 0, 0, 0⟩ ∧
      (t.ctrl c).seq.trace = filterRecorded op bad (.f0 :: rest) ∧ t.flt = filterApplied op bad (.f0 :: rest) s.flt := by
  subst hbad
  have hexec : exec (.cfgfilt op) s = runTurns c s.env (s.upd c (·.start (.filter op .f0))) := runCommand_inited _ hcan
  rw [hexec]
  obtain ⟨t, hrun, ⟨left, hleft⟩, hend⟩ := runTurns_reaches
    (P := fun u => ∃ left, u.filterLeft c op st (filterApplied op (comboRejected s.cfg op) (.f0 :: rest) s.flt)
      (filterRecorded op (comboRejected s.cfg op) (.f0 :: rest)) left)
    (fun _ ⟨_, h⟩ hb => filterLeft_seq h hb) (fun _ _ _ _ ⟨_, h⟩ he => ⟨_, filterLeft_bus h he⟩)
    (fun _ e ⟨_, h⟩ => ⟨_, filterLeft_withEnv h e⟩) s.env (s.upd c (·.start (.filter op .f0)))
    ⟨.f0 :: rest, by simp, by simpa using hfollows, by simp, by simp⟩
    (by simpa [State.quiet] using hquiet)
  obtain ⟨hat, -, hflt, htrace⟩ := hleft
  cases left with
  | cons a left => exact absurd hend (filter_goes_on hat)
  | nil => exact ⟨t, hrun, (not_busy_iff _).2 hat.1, hat.2, by simpa [filterRecorded] using htrace, hflt⟩

/-! ## A `CFGFILT` that fails (R177, R178) -/

/-- Settles O28: F0 is the only step, and it makes no access. -/
theorem cfgfiltRejectsBankOutOfRange : Obligations.CfgfiltRejectsBankOutOfRange := by
  intro s c op hcan hquiet hbank
  exact exec_cfgfilt_of_follows (st := .configurationFailed) (rest := []) hcan hquiet rfl ⟨nofun, if_pos hbank, trivial⟩

/-- Settles O29: F1 sets `FINIT`, and F2 finds the combination rejected and clears it. -/
theorem cfgfiltRejectsUnsupportedCombination : Obligations.CfgfiltRejectsUnsupportedCombination := by
  refine ⟨rfl, fun s c op hp => ?_, fun s c op hcan hquiet hbank hcombo => ?_⟩
  · obtain ⟨t, ht, hs⟩ := filterStep_steps hp nofun
    exact ⟨t, ht, hs.flt, hs.next, hs.trace⟩
  · exact exec_cfgfilt_of_follows (st := .configurationFailed) (rest := [.f1, .f2]) hcan hquiet
      (List.contains_iff_mem.2 hcombo) ⟨nofun, if_neg (Nat.not_le.2 hbank), nofun, rfl, nofun, rfl, trivial⟩

/-! ## A `CFGFILT` that succeeds (R176, R180, R181) -/

/-- The steps from F0 to the end of a `CFGFILT` that succeeds (R176). -/
def allFilterSteps : List FilterStep := [.f0, .f1, .f2, .f3, .f4, .f5, .f6, .f7a, .f7b, .f8, .f9]

theorem filterFollows_allFilterSteps {op : FilterOp} (hbank : op.bank.toNat < 28) (g : Filters) :
    filterFollows op false .ok allFilterSteps g := by
  simp [allFilterSteps, filterFollows, Nat.not_le.2 hbank]

theorem setBit_getLsbD_same (r : BitVec 28) {b : Nat} (v : Bool) (h : b < 28) : (setBit r b v).getLsbD b = v := by
  rw [setBit_getLsbD, if_pos ⟨rfl, h⟩]

theorem setBit_getLsbD_ne (r : BitVec 28) {b i : Nat} (v : Bool) (h : i ≠ b) : (setBit r b v).getLsbD i = r.getLsbD i := by
  rw [setBit_getLsbD, if_neg (fun hi => h hi.1)]

/-- Of two writes to the same bit the second one counts (F3 and F8 of R176). -/
theorem setBit_setBit (r : BitVec 28) (b : Nat) (v w : Bool) : setBit (setBit r b v) b w = setBit r b w := by
  refine BitVec.eq_of_getLsbD_eq fun i hi => ?_
  rw [setBit_getLsbD, setBit_getLsbD, setBit_getLsbD]
  split <;> rfl

theorem filterApplied_allFilterSteps (op : FilterOp) (g : Filters) :
    filterApplied op false allFilterSteps g =
      { finit := false
        fm1r := setBit g.fm1r op.bank.toNat (decide (op.mode = .list))
        fs1r := setBit g.fs1r op.bank.toNat (decide (op.scale = .s32))
        ffa1r := setBit g.ffa1r op.bank.toNat (decide (op.fifo = .f1))
        fa1r := setBit g.fa1r op.bank.toNat op.enable
        fr1 := setReg g.fr1 op.bank.toNat (fr1Value op)
        fr2 := setReg g.fr2 op.bank.toNat (fr2Value op) } := by
  cases he : op.enable <;> simp [filterApplied, allFilterSteps, setBit_setBit, he]

/-- A register of two halves, the high one first, as R180 and R181 write it. -/
theorem append_halves (hi lo : BitVec 16) : (hi ++ lo : Word) = (hi.setWidth 32 <<< 16) ||| lo.setWidth 32 := by
  rw [BitVec.append_def, BitVec.shiftLeftZeroExtend_eq, BitVec.setWidth'_eq]

/-- Settles O30: the combination is supported and the bank in range, so that all steps are made, with `FINIT` set from F1 on;
each register of the result is the old one with the bank's place in it written. -/
theorem cfgfiltProgramsItsBankAlone : Obligations.CfgfiltProgramsItsBankAlone := by
  intro s c op hbank hcan hquiet hcombo
  have hgood : comboRejected s.cfg op = false := by simpa [comboRejected] using hcombo
  obtain ⟨t, hexec, hidle, hresp, htrace, hflt⟩ :=
    exec_cfgfilt_of_follows hcan hquiet hgood (filterFollows_allFilterSteps hbank s.flt)
  rw [← allFilterSteps, filterApplied_allFilterSteps] at hflt
  refine ⟨t, hexec, hidle, hresp, ?_, ?_⟩
  · simp [htrace, filterRecorded]
  rw [hflt]
  refine ⟨rfl, setBit_getLsbD_same _ _ hbank, setBit_getLsbD_same _ _ hbank, setBit_getLsbD_same _ _ hbank,
    setBit_getLsbD_same _ _ hbank, fun hscale => ?_, fun hscale => ?_, fun b hb hne => ⟨setBit_getLsbD_ne _ _ hne,
      setBit_getLsbD_ne _ _ hne, setBit_getLsbD_ne _ _ hne, setBit_getLsbD_ne _ _ hne, ?_, ?_⟩⟩
  · simp [setReg_getElem, fr1Value, fr2Value, hscale, append_halves]
  · simp [setReg_getElem, fr1Value, fr2Value, hscale, append_halves]
  · simp [setReg_getElem, hne.symm]
  · simp [setReg_getElem, hne.symm]

end Sys2Proof.Machine
end

section
/-! SUPPORT. When BUS deposits a frame (43_filter.md R179, 45_bus_engine.md R226, R228, R229). -/

namespace Sys2Proof.Machine

theorem Ctrl.normalMode_iff (k : Ctrl) :
    k.normalMode = true ↔ k.mcr.inrq = false ∧ k.msr.inak = false ∧ k.msr.slak = false := by
  simp [Ctrl.normalMode, and_assoc]

/-- A frame is accepted through an active bank that is assigned to the FIFO and matches (R228). -/
theorem Filters.accepts_iff (rule : MatchRule) (flt : Filters) (f : Fifo) (fr : BusFrame) :
    flt.accepts rule f fr = true ↔
      ∃ b : Fin 28, flt.fa1r.getLsbD b = true ∧ flt.ffa1r.getLsbD b = decide (f = .f1) ∧
        matchBank rule flt b fr = true := by
  simp [Filters.accepts, Filters.feeds, and_assoc]

/-- Reception is possible in normal mode, with the filters live, through a bank that accepts the frame (R226, R228, R275). -/
theorem canReceive_iff (s : State) (c : Inst) (f : Fifo) (fr : BusFrame) :
    s.canReceive c f fr = true ↔
      (s.ctrl c).normalMode = true ∧ s.flt.finit = false ∧ s.flt.accepts s.cfg.matchRule f fr = true := by
  simp [State.canReceive, and_assoc]

/-- The guard and the effect of BUS-DEPOSIT (R228, R229). -/
theorem busStep_deposit_eq_some {s t : State} {c : Inst} {f : Fifo} {fr : BusFrame} {junk : Junk} :
    busStep c (.deposit f fr junk) s = some t ↔
      s.canReceive c f fr = true ∧ ((s.ctrl c).rf f).queue.length < fifoDepth ∧
        (s.upd c fun k => k.updRf f (·.deposit (storedImage fr junk))) = t := by
  simp only [busStep, Option.ite_none_right_eq_some, Option.some.injEq, Bool.and_eq_true, decide_eq_true_eq, and_assoc]

theorem deposit_full {q : RxFifo} {e : Entry} (h : (q.deposit e).queue.length = fifoDepth) : (q.deposit e).full = true := by
  have hthird : q.queue.length + 1 = fifoDepth := by simpa [RxFifo.deposit] using h
  simp [RxFifo.deposit, hthird]

/-- Settles O47, by the guard of the step and its effect on the FIFO that it names. -/
theorem depositNeedsALiveMatchingBank : Obligations.DepositNeedsALiveMatchingBank := by
  intro s t c f fr junk h
  obtain ⟨hreceive, hroom, rfl⟩ := busStep_deposit_eq_some.1 h
  obtain ⟨hmode, hlive, haccepts⟩ := (canReceive_iff s c f fr).1 hreceive
  obtain ⟨hinrq, hinak, hslak⟩ := (Ctrl.normalMode_iff _).1 hmode
  refine ⟨hinrq, hinak, hslak, hlive, (Filters.accepts_iff _ _ _ _).1 haccepts, hroom, ?_⟩
  rw [ctrl_upd_same, rf_updRf_same]
  exact ⟨rfl, deposit_full, rfl, fun g hg => rf_updRf_ne _ _ hg, fun i => updRf_mb _ _ _ _⟩

end Sys2Proof.Machine
end

section
/-! SUPPORT. How the turns of a run that reaches its end are counted, and what one step of `INIT` does, said once
(20_memory.md R78, 44_init.md R201 to R208). -/

namespace Sys2Proof.Machine

/-! ## Runs that are known to end -/

/-- `runTurns_follows` for a run that is known to reach a next state: the moves need only keep the property, and a run that
ends at a wait has used up its turns. -/
theorem runTurns_along {Q : List Turn → State → Prop} {c : Inst}
    (hseq : ∀ ts s t, Q ts s → s.busy c = true → (∀ x ∈ ts.head?, x = .seq c) → seqStep c s = .next t → Q ts.tail t)
    (hbus : ∀ d e ts s, Q (.bus d e :: ts) s → s.busy c = true → Q ts ((busStep d e s).getD s))
    (henv : ∀ ts s e, Q ts s → Q ts { s with env := e }) {t : State} :
    ∀ ts s, Q ts s → (ts.all fun x => x.ownOrBus c && s.present x.inst) = true → runTurns c ts s = .next t →
      ∃ ts', Q ts' t ∧ (t.busy c = false ∨ ts' = [] ∧ t.waiting c = true) := by
  intro ts
  induction ts with
  | nil =>
    intro s hq _ h
    have hend := runTurns_ends [] s t h
    exact ⟨[], runAlone_induct (P := Q []) (fun u v hu hb hv => hseq [] u v hu hb (by simp) hv) _ _ _ (henv [] s [] hq) h,
      hend.imp_right fun hw => ⟨rfl, hw⟩⟩
  | cons x ts ih =>
    intro s hq hquiet h
    simp only [List.all_cons, Bool.and_eq_true] at hquiet
    obtain ⟨⟨hown, hpres⟩, hrest⟩ := hquiet
    unfold runTurns at h
    split at h
    next hb =>
      have hbe : ({ s with env := ts } : State).busy c = true := by simpa [State.busy_def] using hb
      obtain ⟨m, hm, h⟩ := andThen_eq_next.1 h
      have hcfg : m.cfg = s.cfg := (turn_frame hm).1
      have hpr (d : Inst) : m.present d = s.present d := by cases d <;> simp [State.present, hcfg]
      refine ih m ?_ (by simpa [hpr] using hrest) h
      simp only [turn, present_withEnv, hpres, if_true] at hm
      cases x with
      | host d b => simp [Turn.ownOrBus] at hown
      | seq d =>
        obtain rfl : d = c := by simpa [Turn.ownOrBus] using hown
        exact hseq _ _ m (henv _ s ts hq) hbe (by simp) hm
      | bus d e => cases hm; exact hbus d e ts _ (henv _ s ts hq) hbe
    next hb => cases h; exact ⟨x :: ts, henv _ s _ hq, .inl (by simpa [State.busy_def] using hb)⟩

/-- A turn of BUS takes the step or, where its guard does not hold, leaves the state (log 9). -/
theorem busStep_getD {P : State → Prop} {d : Inst} {e : BusStep} {s : State} (h : P s)
    (hstep : ∀ t, busStep d e s = some t → P t) : P ((busStep d e s).getD s) := by
  cases he : busStep d e s with
  | none => exact h
  | some t => exact hstep t he

/-- BUS of one instance moves nothing at the other one (R237). -/
theorem busStep_ctrl_ne {c d : Inst} {e : BusStep} {s t : State} (h : busStep d e s = some t) (hc : c ≠ d) :
    t.ctrl c = s.ctrl c := by
  obtain ⟨r, rfl⟩ | ⟨i, b, -, -, rfl⟩ | ⟨f, im, -, -, -, rfl⟩ | ⟨f, im, -, -, -, rfl⟩ := busStep_cases h <;>
    exact ctrl_upd_ne _ _ hc

@[simp] theorem withMsr_mb (k : Ctrl) (r : MsrReg) (i : Mb) : ({ k with msr := r } : Ctrl).mb i = k.mb i := by
  cases i <;> rfl

@[simp] theorem withMsr_rf (k : Ctrl) (r : MsrReg) (f : Fifo) : ({ k with msr := r } : Ctrl).rf f = k.rf f := by
  cases f <;> rfl

/-- An `INIT` needs no initialised instance and begins at I0 (R57, R58, R201). -/
theorem exec_init {s : State} {c : Inst} (op : InitOp) (h : s.idleAt c = true) :
    exec (.init op) s = runTurns c s.env (s.upd c (·.start (.init op .i0))) :=
  runCommand_idle _ h

/-! ## One step of `INIT` -/

/-- What a step of `INIT` writes to `MCR` (R201). -/
@[simp] def InitStep.modes (op : InitOp) : InitStep → McrReg → McrReg
  | .i3, r => { r with inrq := true, sleep := false }
  | .i5, r => applyFlags op r
  | .i7, r => { r with inrq := false }
  | _, r => r

/-- What a step of `INIT` writes to `BTR` (R204). -/
@[simp] def InitStep.timing (op : InitOp) : InitStep → Word → Word
  | .i6, _ => btrWrite (btrImage op)
  | _, w => w

/-- What a step of `INIT` makes of `inited` (R58). -/
@[simp] def InitStep.inited : InitStep → Bool → Bool
  | .i1, _ => false
  | .i9, _ => true
  | _, b => b

/-- Where a step of `INIT` leads (R201), with `inak` as it reads it and `wait` the parameter `EXIT_ACK_WAIT`: to the end of
the command with a status, or to a step, which at an `await` may be the same again. -/
@[simp] def InitStep.next (op : InitOp) (wait inak : Bool) : InitStep → Except Status InitStep
  | .i0 => if timingValid op then .ok .i1 else .error .configurationFailed
  | .i1 => .ok .i2
  | .i2 => .ok .i3
  | .i3 => .ok .i4
  | .i4 => .ok (if inak then .i5 else .i4)
  | .i5 => .ok .i6
  | .i6 => .ok .i7
  | .i7 => .ok .i8
  | .i8 => .ok (if wait && inak then .i8 else .i9)
  | .i9 => .error .ok

/-- The controller has ended its command with that status, or its `INIT` stands at that step. -/
@[simp] def Ctrl.initAt (l : Ctrl) (op : InitOp) : Except Status InitStep → Prop
  | .error st => l.seq.phase = .idle ∧ l.resp = ⟨st.code, 0, 0, 0, 0⟩
  | .ok a => l.seq.phase = .init op a

/-- Step `a` of `INIT` makes `l` of the controller `k`, by the tables above. -/
structure Ctrl.initMoved (k l : Ctrl) (op : InitOp) (wait : Bool) (a : InitStep) : Prop where
  mcr : l.mcr = a.modes op k.mcr
  msr : l.msr = k.msr
  btr : l.btr = a.timing op k.btr
  mb : ∀ i, l.mb i = k.mb i
  rf : ∀ f, l.rf f = k.rf f
  inited : l.seq.inited = a.inited k.seq.inited
  next : l.initAt op (a.next op wait k.msr.inak)

/-- `Ctrl.initMoved` at instance `c`, with the filter block, the parameters and the other instance as they were. -/
structure State.initMoved (s t : State) (c : Inst) (op : InitOp) (a : InitStep) : Prop where
  flt : t.flt = s.flt
  cfg : t.cfg = s.cfg
  other : t.ctrl c.other = s.ctrl c.other
  own : (s.ctrl c).initMoved (t.ctrl c) op (s.exitAckWait c) a

/-- The collaborator's part of a step: the reset at I2 of the primary (R203), and nothing anywhere else. -/
def collabPart (c : Inst) (a : InitStep) (s : State) : Out :=
  match c, a with
  | .primary, .i2 => collabReset s
  | _, _ => .next s

theorem collabPart_of_ne {c : Inst} {a : InitStep} (h : c = .secondary ∨ a ≠ .i2) (s : State) :
    collabPart c a s = .next s := by
  cases c <;> cases a <;> simp_all [collabPart]

section
variable {s m t : State} {c : Inst} {op : InitOp} {a : InitStep}

theorem upd_initMoved {g : Ctrl → Ctrl} (h : (s.ctrl c).initMoved (g (s.ctrl c)) op (s.exitAckWait c) a) :
    s.initMoved (s.upd c g) c op a :=
  ⟨by simp, by simp, by simp, by simpa using h⟩

theorem afterRead_initMoved {g : Ctrl → Ctrl} (r : Reg)
    (h : (s.ctrl c).initMoved (g ((s.ctrl c).log (.R r))) op (s.exitAckWait c) a) :
    s.initMoved ((s.afterRead c r).upd c g) c op a :=
  ⟨by simp, by simp, by simp [State.afterRead], by simpa using h⟩

theorem seqStep_init (hp : (s.ctrl c).seq.phase = .init op a) : seqStep c s = initStep c op a s := by
  simp only [seqStep, hp]

/-- An `await` reads `MSR` once and goes on from what `INAK` is (R12, R41, R201). -/
theorem readMsr_eq (s : State) (c : Inst) (k : Bool → State → Out) :
    regRead c (.msr c) s (fun _ t => k (t.ctrl c).msr.inak t) = k (s.ctrl c).msr.inak (s.afterRead c (.msr c)) := by
  rw [regRead_some rfl, afterRead_ctrl, log_msr]

/-- A step of `INIT` moves as the tables say from what the collaborator's part leaves. -/
theorem initStep_moves (hp : (s.ctrl c).seq.phase = .init op a) (hm : collabPart c a s = .next m) :
    ∃ t, seqStep c s = .next t ∧ m.initMoved t c op a := by
  rw [seqStep_init hp]
  have hsame (h : c = .secondary ∨ a ≠ .i2) : m = s := by
    rw [collabPart_of_ne h] at hm; cases hm; rfl
  cases a with
  | i0 =>
    obtain rfl := hsame (by simp)
    by_cases ht : timingValid op = true
    · exact ⟨_, if_pos ht, upd_initMoved (by constructor <;> simp [ht])⟩
    · exact ⟨_, if_neg ht, upd_initMoved (by constructor <;> simp [ht])⟩
  | i2 =>
    cases c with
    | primary =>
      have hreset : initStep .primary op .i2 s = .next (m.upd .primary fun k => k.goto (.init op .i3)) := by
        have hm' : collabReset s = .next m := hm
        simp only [initStep, hm', andThen_next]
      exact ⟨_, hreset, upd_initMoved (by constructor <;> simp)⟩
    | secondary =>
      obtain rfl := hsame (by simp)
      exact ⟨_, rfl, upd_initMoved (by constructor <;> simp)⟩
  | i4 =>
    obtain rfl := hsame (by simp)
    rw [show initStep c op .i4 m = _ from
      readMsr_eq m c fun i t => if i then .next (t.upd c fun k => k.goto (.init op .i5)) else .next t]
    by_cases hk : (m.ctrl c).msr.inak = true
    · exact ⟨_, if_pos hk, afterRead_initMoved _ (by constructor <;> simp [hk])⟩
    · exact ⟨_, if_neg hk, by simp, by simp, by simp [State.afterRead], by constructor <;> simp [hk, hp]⟩
  | i8 =>
    obtain rfl := hsame (by simp)
    by_cases hw : m.exitAckWait c = true
    · rw [show initStep c op .i8 m = _ from (if_pos hw).trans
        (readMsr_eq m c fun i t => if i then .next t else .next (t.upd c fun k => k.goto (.init op .i9)))]
      by_cases hk : (m.ctrl c).msr.inak = true
      · exact ⟨_, if_pos hk, by simp, by simp, by simp [State.afterRead], by constructor <;> simp [hk, hw, hp]⟩
      · exact ⟨_, if_neg hk, afterRead_initMoved _ (by constructor <;> simp [hk])⟩
    · exact ⟨_, if_neg hw, upd_initMoved (by constructor <;> simp [hw])⟩
  | _ =>
    obtain rfl := hsame (by simp)
    exact ⟨_, rfl, upd_initMoved (by constructor <;> simp)⟩

/-- Conversely, a step of `INIT` that has a next state has come through the collaborator's part. -/
theorem initStep_eq_next (hp : (s.ctrl c).seq.phase = .init op a) (h : seqStep c s = .next t) :
    ∃ m, collabPart c a s = .next m ∧ m.initMoved t c op a := by
  have hm : ∃ m, collabPart c a s = .next m := by
    by_cases hreset : c = .primary ∧ a = .i2
    · obtain ⟨rfl, rfl⟩ := hreset
      rw [seqStep_init hp] at h
      obtain ⟨m, hm, -⟩ := andThen_eq_next.1 h
      exact ⟨m, hm⟩
    · exact ⟨s, collabPart_of_ne (by cases c <;> simp_all) s⟩
  obtain ⟨m, hm⟩ := hm
  obtain ⟨t', ht', hmoved⟩ := initStep_moves hp hm
  cases ht'.symm.trans h
  exact ⟨m, hm, hmoved⟩

/-- The collaborator's part leaves the parameters and the sequencer of the instance that it is called at (R62). -/
theorem collabPart_keeps (h : collabPart c a s = .next m) : m.cfg = s.cfg ∧ (m.ctrl c).seq = (s.ctrl c).seq := by
  by_cases hreset : c = .primary ∧ a = .i2
  · obtain ⟨rfl, rfl⟩ := hreset
    have h' : collabReset s = .next m := h
    exact ⟨(collabReset_frame h').1, collabReset_seq h'⟩
  · rw [collabPart_of_ne (by cases c <;> simp_all) s] at h
    cases h
    exact ⟨rfl, rfl⟩

end

end Sys2Proof.Machine
end

section
/-! SUPPORT. The bit timing: the range test of I0 and the fields of `BtrImage` (44_init.md R202, R204, 10_state.md R42). -/

namespace Sys2Proof.Machine

theorem timingValid_iff (op : InitOp) :
    timingValid op = true ↔
      (1 ≤ op.prescaler.toNat ∧ op.prescaler.toNat ≤ 1024) ∧ (1 ≤ op.sjw.toNat ∧ op.sjw.toNat ≤ 4) ∧
        (1 ≤ op.seg1.toNat ∧ op.seg1.toNat ≤ 16) ∧ (1 ≤ op.seg2.toNat ∧ op.seg2.toNat ≤ 8) := by
  simp [timingValid, and_assoc]

/-- A number below `2 ^ w` shows `w` bits at most. -/
theorem ofNat_getLsbD_of_lt {n w : Nat} (h : n < 2 ^ w) (i : Nat) :
    (BitVec.ofNat 32 n).getLsbD i = (decide (i < 32) && decide (i < w) && n.testBit i) := by
  rw [BitVec.getLsbD_ofNat]
  by_cases hi : i < w
  · simp [hi]
  · simp [hi, Nat.testBit_lt_two_pow (h.trans_le (Nat.pow_le_pow_right (by decide) (Nat.le_of_not_lt hi)))]

/-- `BtrImage` bit by bit (R204): with the timing in range no number reaches beyond its field of `BTR`. -/
theorem btrImage_getLsbD {op : InitOp} (h : timingValid op = true) (i : Nat) :
    (btrImage op).getLsbD i =
      if i < 10 then (op.prescaler.toNat - 1).testBit i else if i < 16 then false
      else if i < 20 then (op.seg1.toNat - 1).testBit (i - 16)
      else if i < 23 then (op.seg2.toNat - 1).testBit (i - 20) else if i < 24 then false
      else if i < 26 then (op.sjw.toNat - 1).testBit (i - 24) else if i < 30 then false
      else if i = 30 then op.loopback else decide (i = 31) && op.silent := by
  obtain ⟨hpre, hsjw, hseg1, hseg2⟩ := (timingValid_iff op).1 h
  simp only [btrImage, BitVec.getLsbD_or, BitVec.getLsbD_shiftLeft, flagBit_getLsbD,
    ofNat_getLsbD_of_lt (show op.prescaler.toNat - 1 < 2 ^ 10 by omega),
    ofNat_getLsbD_of_lt (show op.seg1.toNat - 1 < 2 ^ 4 by omega),
    ofNat_getLsbD_of_lt (show op.seg2.toNat - 1 < 2 ^ 3 by omega),
    ofNat_getLsbD_of_lt (show op.sjw.toNat - 1 < 2 ^ 2 by omega)]
  grind

theorem btrMask_getLsbD (i : Nat) : btrMask.getLsbD i =
    decide (i < 10 ∨ 16 ≤ i ∧ i < 23 ∨ i = 24 ∨ i = 25 ∨ i = 30 ∨ i = 31) := by
  by_cases hi : i < 32
  · revert i; decide
  · rw [BitVec.getLsbD_of_ge _ _ (by omega)]; simp; omega

/-- The image has nothing in the reserved bits, so that `BTR` holds it as it is (R42, R204). -/
theorem btrWrite_btrImage {op : InitOp} (h : timingValid op = true) : btrWrite (btrImage op) = btrImage op := by
  apply BitVec.eq_of_getLsbD_eq
  intro i hi
  rw [btrWrite, BitVec.getLsbD_and, btrImage_getLsbD h, btrMask_getLsbD]
  grind

/-- A field whose bits are those of a timing number minus one holds that number (R204). -/
theorem timingField_of_testBit {w : Word} {start len n : Nat} (hn : 1 ≤ n ∧ n ≤ 2 ^ len)
    (h : ∀ i < len, w.getLsbD (start + i) = (n - 1).testBit i) : (w.extractLsb' start len).toNat + 1 = n := by
  have hfield : w.extractLsb' start len = BitVec.ofNat len (n - 1) := by
    apply BitVec.eq_of_getLsbD_eq
    intro i hi
    rw [BitVec.getLsbD_extractLsb', BitVec.getLsbD_ofNat, h i hi]
  rw [hfield, BitVec.toNat_ofNat, Nat.mod_eq_of_lt (by omega)]
  omega

/-- Each timing number is in its field minus one, and the two flags are in theirs (R204). -/
theorem btrImage_fields {op : InitOp} (h : timingValid op = true) :
    ((btrImage op).extractLsb' 0 10).toNat + 1 = op.prescaler.toNat ∧
    ((btrImage op).extractLsb' 16 4).toNat + 1 = op.seg1.toNat ∧
    ((btrImage op).extractLsb' 20 3).toNat + 1 = op.seg2.toNat ∧
    ((btrImage op).extractLsb' 24 2).toNat + 1 = op.sjw.toNat ∧
    (btrImage op).getLsbD 30 = op.loopback ∧ (btrImage op).getLsbD 31 = op.silent ∧
    btrImage op &&& ~~~btrMask = 0 := by
  obtain ⟨hpre, hsjw, hseg1, hseg2⟩ := (timingValid_iff op).1 h
  have hbits := btrImage_getLsbD h
  refine ⟨timingField_of_testBit hpre (by grind), timingField_of_testBit hseg1 (by grind),
    timingField_of_testBit hseg2 (by grind), timingField_of_testBit hsjw (by grind), by rw [hbits]; simp,
    by rw [hbits]; simp, ?_⟩
  rw [← btrWrite_btrImage h, btrWrite, BitVec.and_assoc, BitVec.and_not_self]
  exact BitVec.and_zero

/-! ## A timing number out of range (R202) -/

/-- An `INIT` of instance `c` issued at `s` whose timing is out of range: it stands at I0 or has failed, and nothing but BUS
has written to a register. -/
structure State.initRejected (s : State) (c : Inst) (op : InitOp) (u : State) : Prop where
  flt : u.flt = s.flt
  regs : ∀ d, (u.ctrl d).mcr = (s.ctrl d).mcr ∧ (u.ctrl d).btr = (s.ctrl d).btr ∧
    ∀ i, ((u.ctrl d).mb i).contents = ((s.ctrl d).mb i).contents
  trace : (u.ctrl c).seq.trace = []
  inited : (u.ctrl c).seq.inited = (s.ctrl c).seq.inited
  at_ : (u.ctrl c).initAt op (.ok .i0) ∨ (u.ctrl c).initAt op (.error .configurationFailed)

section
variable {s u t : State} {c : Inst} {op : InitOp}

/-- A change of the sequencer and the port of instance `c` is none of a register. -/
theorem initRejected_upd {g : Ctrl → Ctrl} (h : s.initRejected c op u) (hmcr : ∀ k, (g k).mcr = k.mcr)
    (hbtr : ∀ k, (g k).btr = k.btr) (hmb : ∀ k i, (g k).mb i = k.mb i) (d : Inst) :
    ((u.upd c g).ctrl d).mcr = (s.ctrl d).mcr ∧ ((u.upd c g).ctrl d).btr = (s.ctrl d).btr ∧
      ∀ i, (((u.upd c g).ctrl d).mb i).contents = ((s.ctrl d).mb i).contents := by
  rw [ctrl_upd]
  split <;> simpa only [hmcr, hbtr, hmb] using h.regs d

theorem initRejected_seq (ht : timingValid op = false) (h : s.initRejected c op u) (hb : u.busy c = true) :
    ∃ t, seqStep c u = .next t ∧ s.initRejected c op t := by
  obtain hp | ⟨hp, -⟩ := h.at_
  · refine ⟨u.upd c (·.ret .configurationFailed), ?_, ?_⟩
    · rw [seqStep_init hp]
      exact if_neg (by simp [ht])
    · exact ⟨by simpa using h.flt, initRejected_upd h (by simp) (by simp) (by simp), by simpa using h.trace,
        by simpa using h.inited, .inr (by simp)⟩
  · exact absurd hp ((busy_iff _).1 hb)

theorem initRejected_bus {d : Inst} {e : BusStep} (h : s.initRejected c op u) (he : busStep d e u = some t) :
    s.initRejected c op t := by
  obtain ⟨hflt, hregs, htrace, hinit, hat⟩ := h
  have hk := busStep_kept he
  refine ⟨(busStep_flt he).trans hflt, fun j => ?_, by rwa [(hk c).seq], by rwa [(hk c).seq], ?_⟩
  · obtain ⟨hmcr, hbtr, hmb⟩ := hregs j
    exact ⟨(hk j).mcr.trans hmcr, (hk j).btr.trans hbtr, fun i => ((hk j).contents i).trans (hmb i)⟩
  · simpa only [Ctrl.initAt, (hk c).seq, (hk c).resp] using hat

end

/-- Settles O22: the only step is I0, which makes no access, and BUS writes none of these registers. -/
theorem initRejectsTimingOutOfRange : Obligations.InitRejectsTimingOutOfRange := by
  intro s c op hidle hquiet hrange
  have ht : timingValid op = false := by
    rw [Bool.eq_false_iff, Ne, timingValid_iff]
    simpa only [and_assoc] using hrange
  have hstart : s.initRejected c op (s.upd c (·.start (.init op .i0))) := by
    refine ⟨by simp, fun d => ?_, by simp, by simp, .inl (by simp)⟩
    rw [ctrl_upd]
    split <;> simp
  rw [exec_init op hidle]
  obtain ⟨t, hrun, h, hend⟩ := runTurns_reaches (P := s.initRejected c op) (fun _ h hb => initRejected_seq ht h hb)
    (fun _ _ _ _ h he => initRejected_bus h he)
    (fun _ _ ⟨hflt, hregs, htrace, hinit, hat⟩ =>
      ⟨hflt, by simpa using hregs, by simpa using htrace, by simpa using hinit, by simpa using hat⟩)
    s.env _ hstart (by simpa [State.quiet] using hquiet)
  obtain hp | ⟨hp, hresp⟩ := h.at_
  · obtain hidle | hwait := hend
    · exact absurd hp (by simp [(not_busy_iff _).1 hidle])
    · exact absurd hwait (by simp_all [State.waiting])
  · exact ⟨t, hrun, (not_busy_iff _).2 hp, hresp, h.trace, h.inited, h.flt, h.regs⟩

end Sys2Proof.Machine
end

section
/-! SUPPORT. `INIT` under any moves of BUS (44_init.md R201, R205 to R207, 60_exceptions.md R251): what has been written before
each step is told by the step, and no step fails. -/

namespace Sys2Proof.Machine

/-! ## What has been written before each step -/

/-- `MCR` as `INIT` leaves it (R201, R204, R207). -/
def modesAfterInit (op : InitOp) : McrReg :=
  { inrq := false
    sleep := false
    txfp := op.txFifoPriority
    rflm := op.rxFifoLock
    nart := op.noAutoRetransmit
    awum := op.autoWakeup
    abom := op.autoBusOff }

/-- What `INIT` has written before a step, and at I9 the acknowledgement it has waited for (R201, R206). -/
def Ctrl.initWrote (l : Ctrl) (op : InitOp) (wait : Bool) : InitStep → Prop
  | .i0 | .i1 => True
  | .i2 | .i3 => l.seq.inited = false
  | .i4 | .i5 => l.seq.inited = false ∧ l.mcr.inrq = true ∧ l.mcr.sleep = false
  | .i6 => l.seq.inited = false ∧ l.mcr = { modesAfterInit op with inrq := true }
  | .i7 => l.seq.inited = false ∧ l.mcr = { modesAfterInit op with inrq := true } ∧ l.btr = btrImage op
  | .i8 => l.seq.inited = false ∧ l.mcr = modesAfterInit op ∧ l.btr = btrImage op
  | .i9 => l.seq.inited = false ∧ l.mcr = modesAfterInit op ∧ l.btr = btrImage op ∧ (wait = true → l.msr.inak = false)

/-- An `INIT` has returned `Ok` with its effect (R207). -/
structure Ctrl.initDone (l : Ctrl) (op : InitOp) (wait : Bool) : Prop where
  ended : l.initAt op (.error .ok)
  inited : l.seq.inited = true
  mcr : l.mcr = modesAfterInit op
  btr : l.btr = btrImage op
  inak : wait = true → l.msr.inak = false

/-- An `INIT` is on its way or has returned `Ok`. -/
def Ctrl.underInit (l : Ctrl) (op : InitOp) (wait : Bool) : Prop :=
  (∃ a, l.seq.phase = .init op a ∧ l.initWrote op wait a) ∨ l.initDone op wait

section
variable {k l : Ctrl} {op : InitOp} {wait : Bool} {a : InitStep}

/-- Each step writes what the next one finds written, and I9 returns `Ok`. -/
theorem underInit_moved (ht : timingValid op = true) (hw : k.initWrote op wait a) (hm : k.initMoved l op wait a) :
    l.underInit op wait := by
  obtain ⟨hmcr, hmsr, hbtr, -, -, hinit, hnext⟩ := hm
  cases a with
  | i9 =>
    obtain ⟨-, hmcr9, hbtr9, hinak⟩ := hw
    exact .inr ⟨hnext, hinit, hmcr.trans hmcr9, hbtr.trans hbtr9, by rwa [hmsr]⟩
  | i0 => exact .inl ⟨.i1, by simpa [ht] using hnext, trivial⟩
  | i4 =>
    refine .inl ⟨_, hnext, ?_⟩
    split <;> simpa [Ctrl.initWrote, hmcr, hinit] using hw
  | i8 =>
    refine .inl ⟨_, hnext, ?_⟩
    split <;> simp_all [Ctrl.initWrote]
  | _ =>
    refine .inl ⟨_, hnext, ?_⟩
    simp_all [Ctrl.initWrote, applyFlags, modesAfterInit, btrWrite_btrImage]

/-- BUS writes nothing that this rests on, and sets `INAK` only while `INRQ` is set (R224, R237). -/
theorem underInit_busKept (h : k.underInit op wait) (hk : k.busKept l)
    (hinak : k.mcr.inrq = false → k.msr.inak = false → l.msr.inak = false) : l.underInit op wait := by
  obtain ⟨a, hp, hw⟩ | ⟨hend, hinit, hmcr, hbtr, hack⟩ := h
  · refine .inl ⟨a, by rwa [hk.seq], ?_⟩
    cases a <;> simp_all [Ctrl.initWrote, hk.seq, hk.mcr, hk.btr, modesAfterInit]
  · refine .inr ⟨by simpa only [Ctrl.initAt, hk.seq, hk.resp] using hend, by rwa [hk.seq], hk.mcr.trans hmcr,
      hk.btr.trans hbtr, fun hwait => hinak (by rw [hmcr]; rfl) (hack hwait)⟩

/-- A wait is at I4 or at I8, where the instance is not initialised (R58, R201). -/
theorem not_inited_of_waiting {s : State} {c : Inst} (h : (s.ctrl c).underInit op wait) (hw : s.waiting c = true) :
    (s.ctrl c).seq.inited = false := by
  obtain ⟨a, hp, hwrote⟩ | hdone := h
  · obtain ⟨op', hp' | hp'⟩ := waiting_init hw <;> cases hp.symm.trans hp' <;> exact hwrote.1
  · exact absurd (waiting_busy hw) (by simp [State.busy_def, (not_busy_iff _).2 hdone.ended.1])

end

/-! ## The run -/

/-- BUS sets `INAK` only while `INRQ` is set (R224). -/
theorem busStep_inak_clear {c d : Inst} {e : BusStep} {s t : State} (h : busStep c e s = some t)
    (hq : (s.ctrl d).mcr.inrq = false) (hk : (s.ctrl d).msr.inak = false) : (t.ctrl d).msr.inak = false := by
  by_cases hd : d = c
  · subst hd
    cases e <;> simp only [busStep, Option.ite_none_right_eq_some, Option.some.injEq] at h <;> obtain ⟨hg, rfl⟩ := h
    case inakSet => simp [hq] at hg
    all_goals simp [hk]
  · rwa [busStep_ctrl_ne h hd]

/-- An `INIT` of instance `c` issued at `s`, with nothing in the way of the reset at I2: it is on its way or has returned
`Ok`. -/
structure State.initOngoing (s : State) (c : Inst) (op : InitOp) (u : State) : Prop where
  cfg : u.cfg = s.cfg
  allowed : u.resetAllowed c = true
  own : (u.ctrl c).underInit op (s.exitAckWait c)

section
variable {s u m t : State} {c : Inst} {op : InitOp} {a : InitStep}

theorem exitAckWait_congr (h : t.cfg = s.cfg) (c : Inst) : t.exitAckWait c = s.exitAckWait c := by
  cases c <;> simp [State.exitAckWait, h]

/-- Whether the reset is in the way of a running command depends on the parameters and, at the primary, on whether the
secondary runs one. -/
theorem resetAllowed_congr (hcfg : t.cfg = s.cfg)
    (hbusy : c = .primary → t.busy .secondary = s.busy .secondary) : t.resetAllowed c = s.resetAllowed c := by
  cases c <;> simp_all [State.resetAllowed, State.present]

/-- The reset is no fault when no secondary command is in its way (R277, U21). -/
theorem collabPart_of_allowed (h : s.resetAllowed c = true) : ∃ m, collabPart c a s = .next m := by
  by_cases hreset : c = .primary ∧ a = .i2
  · obtain ⟨rfl, rfl⟩ := hreset
    show ∃ m, collabReset s = .next m
    unfold collabReset
    split
    · exact ⟨_, rfl⟩
    · split
      · simp_all [State.resetAllowed]
      · exact ⟨_, rfl⟩
  · exact ⟨s, collabPart_of_ne (by cases c <;> simp_all) s⟩

theorem collabPart_busy (h : collabPart .primary a s = .next m) : m.busy .secondary = s.busy .secondary := by
  by_cases ha : a = .i2
  · subst ha
    have h' : collabReset s = .next m := h
    obtain rfl | ⟨rfl, -⟩ := collabReset_eq_next h' <;> rfl
  · rw [collabPart_of_ne (.inr ha)] at h
    cases h
    rfl

theorem initOngoing_seq (ht : timingValid op = true) (h : s.initOngoing c op u) (hb : u.busy c = true) :
    ∃ t, seqStep c u = .next t ∧ s.initOngoing c op t := by
  obtain ⟨hcfg, hallowed, ⟨a, hp, hw⟩ | hdone⟩ := h
  · obtain ⟨m, hm⟩ := collabPart_of_allowed (a := a) hallowed
    obtain ⟨t, hstep, hmoved⟩ := initStep_moves hp hm
    obtain ⟨hmcfg, hmseq⟩ := collabPart_keeps hm
    refine ⟨t, hstep, hmoved.cfg.trans (hmcfg.trans hcfg), ?_, ?_⟩
    · rw [resetAllowed_congr (hmoved.cfg.trans hmcfg), hallowed]
      rintro rfl
      rw [State.busy_def, show t.ctrl .secondary = m.ctrl .secondary from hmoved.other]
      exact collabPart_busy hm
    · have hown := hmoved.own
      rw [exitAckWait_congr (hmcfg.trans hcfg)] at hown
      refine underInit_moved ht ?_ hown
      by_cases ha : a = .i2
      · subst ha
        simpa only [Ctrl.initWrote, hmseq] using hw
      · rw [collabPart_of_ne (.inr ha)] at hm
        cases hm
        exact hw
  · exact absurd hdone.ended.1 ((busy_iff _).1 hb)

theorem initOngoing_bus {d : Inst} {e : BusStep} (h : s.initOngoing c op u) (he : busStep d e u = some t) :
    s.initOngoing c op t := by
  obtain ⟨hcfg, hallowed, hown⟩ := h
  have hk := busStep_kept he
  refine ⟨(busStep_frame he).1.trans hcfg, ?_, underInit_busKept hown (hk c) (busStep_inak_clear he)⟩
  rw [resetAllowed_congr (busStep_frame he).1 fun _ => by rw [State.busy_def, (hk .secondary).seq, State.busy_def], hallowed]

theorem initOngoing_withEnv (h : s.initOngoing c op u) (e : List Turn) : s.initOngoing c op { u with env := e } := by
  obtain ⟨hcfg, hallowed, hown⟩ := h
  exact ⟨hcfg, by rwa [resetAllowed_congr rfl fun _ => rfl], by simpa using hown⟩

theorem initOngoing_start (hallowed : s.resetAllowed c = true) :
    s.initOngoing c op (s.upd c (·.start (.init op .i0))) := by
  refine ⟨by simp, (resetAllowed_congr (by simp) ?_).trans hallowed, .inl ⟨.i0, by simp, trivial⟩⟩
  rintro rfl
  rfl

end

/-- Settles O24: whatever BUS does the steps go on from one to the next, and the run ends with the last one or at a wait. -/
theorem initReturnsOkOrWaits : Obligations.InitReturnsOkOrWaits := by
  intro s c op hidle hquiet hallowed ht
  rw [exec_init op hidle]
  obtain ⟨t, hrun, h, hend⟩ := runTurns_reaches (P := s.initOngoing c op) (fun _ h hb => initOngoing_seq ht h hb)
    (fun _ _ _ _ h he => initOngoing_bus h he) (fun _ e h => initOngoing_withEnv h e) s.env _
    (initOngoing_start hallowed) (by simpa [State.quiet] using hquiet)
  refine ⟨t, hrun, ?_⟩
  obtain hb | hw := hend
  · obtain ⟨a, hp, -⟩ | hdone := h.own
    · exact absurd hp (by simp [(not_busy_iff _).1 hb])
    · exact .inl ⟨hb, hdone.ended.2, hdone.inited, hdone.mcr, hdone.btr, hdone.inak⟩
  · exact .inr ⟨hw, not_inited_of_waiting h.own hw⟩

end Sys2Proof.Machine
end

section
/-! SUPPORT. `INIT` whose two acknowledgements come while it waits for them or passes by (44_init.md R201, R203 to R207): the
turns still to come are counted against the step that the command is at. -/

namespace Sys2Proof.Machine

/-! ## Where a run stands -/

/-- The number of a step (R201). -/
def InitStep.position : InitStep → Nat
  | .i0 => 0
  | .i1 => 1
  | .i2 => 2
  | .i3 => 3
  | .i4 => 4
  | .i5 => 5
  | .i6 => 6
  | .i7 => 7
  | .i8 => 8
  | .i9 => 9

/-- The number of the step that an `INIT` is at, and 10 once it has ended. -/
def Ctrl.initPosition (l : Ctrl) : Nat :=
  match l.seq.phase with
  | .init _ a => a.position
  | _ => 10

/-- The `INIT` is at an `await` whose condition does not hold (R201). -/
def Ctrl.held (k : Ctrl) (wait : Bool) : Prop :=
  k.initPosition = 4 ∧ k.msr.inak = false ∨ k.initPosition = 8 ∧ wait = true ∧ k.msr.inak = true

section
variable {k l : Ctrl} {op : InitOp} {wait : Bool} {a : InitStep}

theorem initPosition_congr (h : l.seq = k.seq) : l.initPosition = k.initPosition := by
  simp only [Ctrl.initPosition, h]

@[simp] theorem initPosition_withMsr (k : Ctrl) (r : MsrReg) : ({ k with msr := r } : Ctrl).initPosition = k.initPosition := rfl

theorem initPosition_init (hp : k.seq.phase = .init op a) : k.initPosition = a.position := by
  simp [Ctrl.initPosition, hp]

/-- The position goes up by one, but at an `await` whose condition does not hold (R12, R201). -/
theorem initPosition_moved (ht : timingValid op = true) (hp : k.seq.phase = .init op a) (hm : k.initMoved l op wait a) :
    k.held wait ∧ l.initPosition = k.initPosition ∨ ¬ k.held wait ∧ l.initPosition = k.initPosition + 1 := by
  have hnext := hm.next
  unfold Ctrl.held
  rw [initPosition_init hp]
  cases a with
  | i0 =>
    have hl : l.seq.phase = .init op .i1 := by simpa [ht] using hnext
    simp [initPosition_init hl, InitStep.position]
  | i9 =>
    obtain ⟨hl, -⟩ : l.initAt op (.error .ok) := hnext
    simp [Ctrl.initPosition, hl, InitStep.position]
  | i4 =>
    rw [initPosition_init hnext]
    cases k.msr.inak <;> simp [InitStep.position]
  | i8 =>
    rw [initPosition_init hnext]
    cases wait <;> cases k.msr.inak <;> simp [InitStep.position]
  | _ =>
    rw [initPosition_init hnext]
    simp [InitStep.position]

/-- A sequencer that waits is held. -/
theorem held_of_waiting {s : State} {c : Inst} (h : s.waiting c = true) : (s.ctrl c).held (s.exitAckWait c) := by
  unfold State.waiting at h
  split at h
  next hp => exact .inl ⟨initPosition_init hp, by simpa using h⟩
  next hp => exact .inr ⟨initPosition_init hp, by simpa using h⟩
  next => cases h

theorem initPosition_of_busy (h : k.underInit op wait) (hb : k.seq.busy = true) : k.initPosition < 10 := by
  obtain ⟨a, hp, -⟩ | hdone := h
  · rw [initPosition_init hp]
    cases a <;> decide
  · exact absurd hdone.ended.1 ((busy_iff _).1 hb)

theorem initPosition_of_idle (hp : k.seq.phase = .idle) : k.initPosition = 10 := by
  simp [Ctrl.initPosition, hp]

/-- From I8 on no initialisation mode is requested (R201, R207). -/
theorem inrq_of_position (h : k.underInit op wait) (hpos : 8 ≤ k.initPosition) : k.mcr.inrq = false := by
  obtain ⟨a, hp, hw⟩ | hdone := h
  · rw [initPosition_init hp] at hpos
    cases a with
    | i8 | i9 => rw [hw.2.1]; rfl
    | _ => exact absurd hpos (by decide)
  · rw [hdone.mcr]; rfl

/-- At I4 initialisation mode is requested and sleep is not (R201). -/
theorem requested_of_position (h : k.underInit op wait) (hpos : k.initPosition = 4) :
    k.mcr.inrq = true ∧ k.mcr.sleep = false := by
  obtain ⟨a, hp, hw⟩ | hdone := h
  · rw [initPosition_init hp] at hpos
    cases a with
    | i4 => exact hw.2
    | _ => exact absurd hpos (by decide)
  · simp [Ctrl.initPosition, hdone.ended.1] at hpos

end

/-! ## What the run leaves alone (R203) -/

/-- What an `INIT` of instance `c` leaves alone while only its own BUS moves, and only to acknowledge: the other instance if
the reset does not take it in, and all that a secondary's `INIT` does not write. -/
structure State.initKept (s : State) (c : Inst) (u : State) : Prop where
  other : (c = .primary → s.cfg.primaryResetScope = .primaryAndFilters) → u.ctrl c.other = s.ctrl c.other
  own : c = .secondary → u.flt = s.flt ∧ (∀ i, (u.ctrl c).mb i = (s.ctrl c).mb i) ∧ ∀ f, (u.ctrl c).rf f = (s.ctrl c).rf f

section
variable {s u m t : State} {c : Inst} {op : InitOp} {a : InitStep}

theorem initKept_upd {g : Ctrl → Ctrl} (h : s.initKept c u) (hmb : ∀ k i, (g k).mb i = k.mb i)
    (hrf : ∀ k f, (g k).rf f = k.rf f) : s.initKept c (u.upd c g) := by
  obtain ⟨hother, hown⟩ := h
  exact ⟨by simpa using hother, by simpa [hmb, hrf] using hown⟩

theorem collabPart_secondary (h : collabPart .primary a s = .next m) (hscope : s.cfg.primaryResetScope = .primaryAndFilters) :
    m.secondary = s.secondary := by
  by_cases ha : a = .i2
  · subst ha
    have h' : collabReset s = .next m := h
    simp only [collabReset, hscope] at h'
    cases h'
    rfl
  · rw [collabPart_of_ne (.inr ha)] at h
    cases h
    rfl

theorem initKept_moved (hcfg : u.cfg = s.cfg) (h : s.initKept c u) (hm : collabPart c a u = .next m)
    (hmoved : m.initMoved t c op a) : s.initKept c t := by
  obtain ⟨hother, hown⟩ := h
  cases c with
  | primary =>
    refine ⟨fun hscope => ?_, fun hc => nomatch hc⟩
    exact hmoved.other.trans ((collabPart_secondary hm (by rw [hcfg, hscope rfl])).trans (hother hscope))
  | secondary =>
    cases hm
    obtain ⟨hflt, hmb, hrf⟩ := hown rfl
    exact ⟨fun hscope => hmoved.other.trans (hother hscope), fun _ => ⟨hmoved.flt.trans hflt,
      fun i => (hmoved.own.mb i).trans (hmb i), fun f => (hmoved.own.rf f).trans (hrf f)⟩⟩

/-! ## The two acknowledgements (R224, R225) -/

theorem busStep_inakSet_getD (h : (u.ctrl c).msr.inak = true ∨ (u.ctrl c).mcr.inrq = true ∧ (u.ctrl c).mcr.sleep = false) :
    ∃ r : MsrReg, r.inak = true ∧ (busStep c .inakSet u).getD u = u.upd c fun k => { k with msr := r } := by
  by_cases hk : (u.ctrl c).msr.inak = true
  · refine ⟨(u.ctrl c).msr, hk, ?_⟩
    have hnone : busStep c .inakSet u = none := if_neg (by simp [hk])
    rw [hnone]
    cases c <;> rfl
  · obtain ⟨hq, hs⟩ := h.resolve_left hk
    have hsome : busStep c .inakSet u = some (u.upd c fun k => { k with msr := { k.msr with inak := true } }) :=
      if_pos (by simp [hk, hq, hs])
    refine ⟨{ (u.ctrl c).msr with inak := true }, rfl, ?_⟩
    rw [hsome, Option.getD_some]
    exact upd_congr rfl

theorem busStep_inakClr_getD (hk : (u.ctrl c).msr.inak = true) (hq : (u.ctrl c).mcr.inrq = false) :
    ∃ r : MsrReg, r.inak = false ∧ (busStep c .inakClr u).getD u = u.upd c fun k => { k with msr := r } := by
  have hsome : busStep c .inakClr u = some (u.upd c fun k => { k with msr := { k.msr with inak := false } }) :=
    if_pos (by simp [hk, hq])
  refine ⟨{ (u.ctrl c).msr with inak := false }, rfl, ?_⟩
  rw [hsome, Option.getD_some]
  exact upd_congr rfl

end

/-! ## The run -/

/-- `m` steps of the command, then the second acknowledgement. -/
def turnsToExit (c : Inst) (m : Nat) : List Turn := List.replicate m (.seq c) ++ [.bus c .inakClr]

/-- `n` steps of the command, then the first acknowledgement, then the turns above. -/
def turnsToEntry (c : Inst) (n m : Nat) : List Turn := List.replicate n (.seq c) ++ .bus c .inakSet :: turnsToExit c m

/-- How far an `INIT` is with the turns `ts` to come. Before the first acknowledgement it is at I4 at the latest when that is
due, and past I4 only if `INAK` was set all along; before the second it is at I8 or further when that is due; after it `INAK`
is clear for good. -/
def Ctrl.initPaced (l : Ctrl) (c : Inst) (wait : Bool) (m : Nat) (ts : List Turn) : Prop :=
  (∃ j, ts = turnsToEntry c j m ∧ 4 ≤ j + l.initPosition ∧ (5 ≤ l.initPosition → l.msr.inak = true)) ∨
  (∃ j, ts = turnsToExit c j ∧ l.msr.inak = true ∧ 4 ≤ l.initPosition ∧
    (m + 4 ≤ j + l.initPosition ∨ l.initPosition = 10 ∨ wait = true ∧ l.initPosition = 8)) ∨
  (ts = [] ∧ l.msr.inak = false ∧ 8 ≤ l.initPosition ∧ (wait = true ∨ m < 6))

/-- An `INIT` of instance `c` issued at `s` is on its way or has returned `Ok`, with the turns `ts` to come. -/
def State.initPaced (s : State) (c : Inst) (op : InitOp) (m : Nat) (ts : List Turn) (u : State) : Prop :=
  s.initOngoing c op u ∧ s.initKept c u ∧ (u.ctrl c).initPaced c (s.exitAckWait c) m ts

section
variable {k l : Ctrl} {s u t : State} {c : Inst} {op : InitOp} {a : InitStep} {wait : Bool} {m : Nat} {ts : List Turn}

/-- A step of the command keeps the pace, if the next turn is its own. -/
theorem initPaced_moved (h : k.initPaced c wait m ts) (hown : ∀ x ∈ ts.head?, x = .seq c) (hb : k.initPosition < 10)
    (hmsr : 4 ≤ k.initPosition → l.msr = k.msr)
    (hmove : k.held wait ∧ l.initPosition = k.initPosition ∨ ¬ k.held wait ∧ l.initPosition = k.initPosition + 1) :
    l.initPaced c wait m ts.tail := by
  unfold Ctrl.held at hmove
  obtain ⟨j, rfl, hpos, hinak⟩ | ⟨j, rfl, hinak, hpos, hpace⟩ | ⟨rfl, hinak, hpos, hm⟩ := h
  · cases j with
    | zero => simp [turnsToEntry] at hown
    | succ j =>
      refine .inl ⟨j, rfl, by omega, fun hl => ?_⟩
      rw [hmsr (by omega)]
      by_cases h5 : 5 ≤ k.initPosition
      · exact hinak h5
      · simpa [show k.initPosition = 4 by omega] using (hmove.resolve_left (by omega)).1
  · cases j with
    | zero => simp [turnsToExit] at hown
    | succ j =>
      exact .inr (.inl ⟨j, rfl, by rw [hmsr hpos, hinak], by omega, by grind⟩)
  · exact .inr (.inr ⟨rfl, by rw [hmsr (by omega), hinak], by omega, hm⟩)

theorem initPaced_seq (ht : timingValid op = true) (h : s.initPaced c op m ts u) (hb : u.busy c = true)
    (hown : ∀ x ∈ ts.head?, x = .seq c) (hstep : seqStep c u = .next t) : s.initPaced c op m ts.tail t := by
  obtain ⟨hgo, hkept, hpace⟩ := h
  have hlt := initPosition_of_busy hgo.own hb
  obtain ⟨a, hp, -⟩ | hdone := hgo.own
  · obtain ⟨v, hv, hmoved⟩ := initStep_eq_next hp hstep
    obtain ⟨t', ht', hgo'⟩ := initOngoing_seq ht hgo hb
    cases ht'.symm.trans hstep
    obtain ⟨hvcfg, hvseq⟩ := collabPart_keeps hv
    have hvp : (v.ctrl c).seq.phase = .init op a := by rw [hvseq, hp]
    have hpos : (v.ctrl c).initPosition = (u.ctrl c).initPosition := by rw [initPosition_init hvp, initPosition_init hp]
    have hmsr (h4 : 4 ≤ (u.ctrl c).initPosition) : (v.ctrl c).msr = (u.ctrl c).msr := by
      have ha : a ≠ .i2 := by rintro rfl; simp [initPosition_init hp, InitStep.position] at h4
      rw [collabPart_of_ne (.inr ha)] at hv
      cases hv
      rfl
    have hheld : (v.ctrl c).held (u.exitAckWait c) ↔ (u.ctrl c).held (u.exitAckWait c) := by
      unfold Ctrl.held
      grind
    have hmove := initPosition_moved ht hvp hmoved.own
    rw [exitAckWait_congr hvcfg, hheld, hpos, exitAckWait_congr hgo.cfg] at hmove
    exact ⟨hgo', initKept_moved hgo.cfg hkept hv hmoved,
      initPaced_moved hpace hown hlt (fun h4 => hmoved.own.msr.trans (hmsr h4)) hmove⟩
  · exact absurd hdone.ended.1 ((busy_iff _).1 hb)

theorem initPaced_bus (hm : 4 ≤ m) {d : Inst} {e : BusStep} (h : s.initPaced c op m (.bus d e :: ts) u)
    (hb : u.busy c = true) : s.initPaced c op m ts ((busStep d e u).getD u) := by
  obtain ⟨hgo, hkept, hpace⟩ := h
  have hlt := initPosition_of_busy hgo.own hb
  have hgo' := busStep_getD hgo fun _ he => initOngoing_bus (d := d) (e := e) hgo he
  have hkept' (r : MsrReg) : s.initKept c (u.upd c fun k => { k with msr := r }) :=
    initKept_upd hkept (by simp) (by simp)
  obtain ⟨j, hts, hpos, hinak⟩ | ⟨j, hts, hinak, hpos, hpace⟩ | ⟨hts, -⟩ := hpace
  · cases j with
    | succ j => simp [turnsToEntry, List.replicate_succ] at hts
    | zero =>
      obtain ⟨⟨rfl, rfl⟩, rfl⟩ : (d = c ∧ e = .inakSet) ∧ ts = turnsToExit c m := by simpa [turnsToEntry] using hts
      obtain ⟨r, hr, he⟩ := busStep_inakSet_getD (c := d) (u := u) <|
        (Nat.lt_or_ge 4 (u.ctrl d).initPosition).imp hinak fun h4 => requested_of_position hgo.own (by omega)
      rw [he] at hgo' ⊢
      refine ⟨hgo', hkept' r, .inr (.inl ⟨m, rfl, ?_⟩)⟩
      rw [ctrl_upd_same, initPosition_withMsr]
      exact ⟨hr, by omega, .inl (by omega)⟩
  · cases j with
    | succ j => simp [turnsToExit, List.replicate_succ] at hts
    | zero =>
      obtain ⟨⟨rfl, rfl⟩, rfl⟩ : (d = c ∧ e = .inakClr) ∧ ts = [] := by simpa [turnsToExit] using hts
      obtain ⟨r, hr, he⟩ := busStep_inakClr_getD hinak (inrq_of_position hgo.own (by omega))
      rw [he] at hgo' ⊢
      refine ⟨hgo', hkept' r, .inr (.inr ⟨rfl, ?_⟩)⟩
      rw [ctrl_upd_same, initPosition_withMsr]
      exact ⟨hr, by omega, by grind⟩
  · cases hts

theorem initPaced_withEnv (h : s.initPaced c op m ts u) (e : List Turn) : s.initPaced c op m ts { u with env := e } := by
  obtain ⟨hgo, ⟨hother, hown⟩, hpace⟩ := h
  exact ⟨initOngoing_withEnv hgo e, ⟨by simpa using hother, by simpa using hown⟩, by simpa using hpace⟩

theorem initPaced_start {n : Nat} (hallowed : s.resetAllowed c = true) (hn : 4 ≤ n) :
    s.initPaced c op m (turnsToEntry c n m) (s.upd c (·.start (.init op .i0))) := by
  refine ⟨initOngoing_start hallowed, ⟨by simp, by simp⟩, .inl ⟨n, rfl, by omega, ?_⟩⟩
  rw [initPosition_init (op := op) (a := .i0) (by simp)]
  simp [InitStep.position]

end

/-- Settles O23: by O24 the run ends at a wait or with the settings written, and with these acknowledgements it has no wait
to end at, since `INAK` is set from I5 up to the second one and clear after it. -/
theorem initCompletesWhenAcknowledged : Obligations.InitCompletesWhenAcknowledged := by
  intro s c op n m hidle hpres hallowed hpre hsjw hseg1 hseg2 hn hm henv
  have ht : timingValid op = true := (timingValid_iff op).2 ⟨hpre, hsjw, hseg1, hseg2⟩
  have henv' : s.env = turnsToEntry c n m := henv
  have hquiet : s.quiet c = true := by simp [State.quiet, henv', turnsToEntry, turnsToExit, Turn.ownOrBus, Turn.inst, hpres]
  obtain ⟨t, hexec, -⟩ := initReturnsOkOrWaits s c op hidle hquiet hallowed ht
  have hrun := hexec
  rw [exec_init op hidle, henv'] at hrun
  obtain ⟨ts', ⟨hgo, hkept, hpace⟩, hend⟩ := runTurns_along (Q := s.initPaced c op m)
    (fun _ _ _ h hb hown hstep => initPaced_seq ht h hb hown hstep) (fun _ _ _ _ h hb => initPaced_bus hm h hb)
    (fun _ _ e h => initPaced_withEnv h e) _ _ (initPaced_start hallowed hn)
    (by simpa [State.quiet, henv'] using hquiet) hrun
  have hb : t.busy c = false := by
    refine hend.resolve_right fun ⟨hts, hwait⟩ => ?_
    have hheld := held_of_waiting hwait
    unfold Ctrl.held at hheld
    obtain ⟨j, hj, -⟩ | ⟨j, hj, -⟩ | ⟨-, hinak, hpos, -⟩ := hpace
    · simp [hts, turnsToEntry] at hj
    · simp [hts, turnsToExit] at hj
    · grind
  obtain ⟨a, hp, -⟩ | hdone := hgo.own
  · exact absurd hp (by simp [(not_busy_iff _).1 hb])
  have hfields := btrImage_fields ht
  rw [← hdone.btr] at hfields
  obtain ⟨hpreF, hseg1F, hseg2F, hsjwF, hloopback, hsilent, hreserved⟩ := hfields
  have hpos := initPosition_of_idle ((not_busy_iff _).1 hb)
  refine ⟨t, hexec, hb, hdone.ended.2, hdone.inited, hdone.mcr, hpreF, hseg1F, hseg2F, hsjwF, hloopback,
    hsilent, hreserved, hdone.inak, ?_, ?_, ?_⟩
  · intro hwait hm6
    obtain ⟨j, -, -, hinak⟩ | ⟨j, -, hinak, -⟩ | ⟨-, -, -, hlate⟩ := hpace
    · exact hinak (by omega)
    · exact hinak
    · rw [hwait] at hlate
      exact absurd hm6 (by simpa using hlate)
  · rintro rfl hscope
    exact hkept.other fun _ => hscope
  · rintro rfl
    obtain ⟨hflt, hmb, hrf⟩ := hkept.own rfl
    exact ⟨hflt, hkept.other nofun, hmb, hrf⟩

end Sys2Proof.Machine
end

section
/-! SUPPORT. What the two instances' `INIT` leaves of the other instance and of the filter block, whatever BUS does: the
secondary's resets nothing, the primary's resets its scope (44_init.md R203, R207, R208, 70_reset_and_hazards.md R265, R266,
R277). -/

namespace Sys2Proof.Machine

/-! ## The secondary's `INIT` -/

/-- What an instance holds for its users: the fields of the mailboxes that only SEQ writes, and the entry at the head of each
queue (R28, R50). -/
structure Ctrl.holdingsKept (k l : Ctrl) : Prop where
  contents : ∀ i, (l.mb i).contents = (k.mb i).contents
  head : ∀ f e q, (k.rf f).queue = e :: q → ∃ q', (l.rf f).queue = e :: q'

theorem Ctrl.holdingsKept.trans {k l m : Ctrl} (h : k.holdingsKept l) (g : l.holdingsKept m) : k.holdingsKept m where
  contents i := (g.contents i).trans (h.contents i)
  head f e q hq := by
    obtain ⟨q', hq'⟩ := h.head f e q hq
    exact g.head f e q' hq'

theorem Ctrl.busKept.holdings {k l : Ctrl} (h : k.busKept l) : k.holdingsKept l := ⟨h.contents, h.head⟩

theorem Ctrl.busKept.trans {k l m : Ctrl} (h : k.busKept l) (g : l.busKept m) : k.busKept m where
  mcr := g.mcr.trans h.mcr
  btr := g.btr.trans h.btr
  seq := g.seq.trans h.seq
  cmd := g.cmd.trans h.cmd
  resp := g.resp.trans h.resp
  contents i := (g.contents i).trans (h.contents i)
  tme i hi := g.tme i (h.tme i hi)
  txrq i hi := h.txrq i (g.txrq i hi)
  mb i hi := (g.mb i (by rw [h.mb i hi]; exact hi)).trans (h.mb i hi)
  head := (h.holdings.trans g.holdings).head
  length f := (h.length f).trans (g.length f)

/-- An `INIT` of the secondary issued at `s` is on its way or has ended, and the primary has been changed by BUS alone. -/
structure State.secondaryInit (s : State) (op : InitOp) (u : State) : Prop where
  flt : u.flt = s.flt
  primary : s.primary.busKept u.primary
  own : s.secondary.holdingsKept u.secondary
  at_ : u.secondary.seq.phase = .idle ∨ ∃ a, u.secondary.seq.phase = .init op a

section
variable {s u m t : State} {op : InitOp} {a : InitStep} {c : Inst}

/-- After a step the `INIT` stands at a step again or has ended. -/
theorem initMoved_phase {k l : Ctrl} {wait : Bool} (h : k.initMoved l op wait a) :
    l.seq.phase = .idle ∨ ∃ b, l.seq.phase = .init op b := by
  have hnext := h.next
  cases he : a.next op wait k.msr.inak with
  | error st => rw [he] at hnext; exact .inl hnext.1
  | ok b => rw [he] at hnext; exact .inr ⟨b, hnext⟩

theorem secondaryInit_seq (h : s.secondaryInit op u) (hb : u.busy .secondary = true)
    (hstep : seqStep .secondary u = .next t) : s.secondaryInit op t := by
  obtain ⟨hflt, hprimary, hown, hp | ⟨a, hp⟩⟩ := h
  · exact absurd hp ((busy_iff _).1 hb)
  · obtain ⟨m, hm, hmoved⟩ := initStep_eq_next (c := .secondary) hp hstep
    cases hm
    have hsame : t.primary = u.primary := hmoved.other
    refine ⟨hmoved.flt.trans hflt, by rwa [hsame], hown.trans ⟨fun i => ?_, fun f e q hq => ⟨q, ?_⟩⟩,
      initMoved_phase hmoved.own⟩
    · exact congrArg Mailbox.contents (hmoved.own.mb i)
    · rw [show t.secondary.rf f = u.secondary.rf f from hmoved.own.rf f, hq]

theorem secondaryInit_bus {d : Inst} {e : BusStep} (h : s.secondaryInit op u) (he : busStep d e u = some t) :
    s.secondaryInit op t := by
  obtain ⟨hflt, hprimary, hown, hat⟩ := h
  have hk : u.secondary.busKept t.secondary := busStep_kept he .secondary
  exact ⟨(busStep_flt he).trans hflt, hprimary.trans (busStep_kept he .primary), hown.trans hk.holdings, by rwa [hk.seq]⟩

end

/-- Settles O27: no step of the secondary's `INIT` writes to a mailbox, a queue, the filter block or the primary, and BUS
leaves all of these as far as the statement names them. -/
theorem secondaryInitResetsNothing : Obligations.SecondaryInitResetsNothing := by
  intro s t op hidle hquiet hexec
  rw [exec_init op hidle] at hexec
  have hstart : s.secondaryInit op (s.upd .secondary (·.start (.init op .i0))) :=
    ⟨rfl, .refl _, ⟨fun i => by cases i <;> rfl, fun f e q hq => ⟨q, by cases f <;> exact hq⟩⟩, .inr ⟨.i0, rfl⟩⟩
  obtain ⟨-, ⟨hflt, hprimary, hown, -⟩, -⟩ := runTurns_along (Q := fun _ u => s.secondaryInit op u)
    (fun _ _ _ h hb _ hstep => secondaryInit_seq h hb hstep)
    (fun _ _ _ _ h _ => busStep_getD h fun _ he => secondaryInit_bus h he)
    (fun _ _ _ ⟨hflt, hprimary, hown, hat⟩ => ⟨hflt, hprimary, hown, hat⟩) _ _ hstart
    (by simpa [State.quiet] using hquiet) hexec
  refine ⟨hflt, hprimary.seq, hprimary.mcr, hprimary.btr, fun d => ?_⟩
  cases d with
  | primary => exact ⟨hprimary.contents, hprimary.head⟩
  | secondary => exact ⟨hown.contents, hown.head⟩

/-! ## The primary's `INIT` -/

/-- No request is pending in any mailbox and none is reported complete, and both queues are empty with their flags clear
(R60, R265). -/
structure Ctrl.clean (k : Ctrl) : Prop where
  mb : ∀ i, (k.mb i).ti.txrq = false ∧ (k.mb i).tme = true ∧ (k.mb i).rqcp = false ∧ (k.mb i).txok = false ∧
    (k.mb i).abrq = false
  rf : ∀ f, k.rf f = ⟨[], false, false⟩

/-- The filter block at its reset values (R62, R266). -/
def Filters.cleared (g : Filters) : Prop := g.finit = true ∧ g.fm1r = 0 ∧ g.fs1r = 0 ∧ g.ffa1r = 0 ∧ g.fa1r = 0

/-- An instance at its reset values, which is asleep (R60, R252), with that sequencer record. -/
structure Ctrl.asleep (k : Ctrl) (q : Seq) : Prop where
  clean : k.clean
  mcr : k.mcr = McrReg.reset
  msr : k.msr = MsrReg.reset
  btr : k.btr = btrReset
  seq : k.seq = q

theorem afterReset_clean (k : Ctrl) (n : Nat) : (k.afterReset n).clean :=
  ⟨fun i => by cases i <;> exact ⟨rfl, rfl, rfl, rfl, rfl⟩, fun f => by cases f <;> rfl⟩

/-- With no active bank nothing is accepted (R228). -/
theorem accepts_of_cleared {g : Filters} (h : g.cleared) (rule : MatchRule) (f : Fifo) (fr : BusFrame) :
    g.accepts rule f fr = false := by
  obtain ⟨-, -, -, -, hfa1r⟩ := h
  rw [Bool.eq_false_iff, Ne, Filters.accepts_iff]
  rintro ⟨b, hb, -⟩
  simp [hfa1r] at hb

section
variable {u t : State} {d : Inst} {e : BusStep}

/-- BUS deposits nothing while the filters are in initialisation mode (R228, R275). -/
theorem busStep_rf_of_finit (he : busStep d e u = some t) (hfinit : u.flt.finit = true) (c : Inst) (f : Fifo) :
    (t.ctrl c).rf f = (u.ctrl c).rf f := by
  obtain ⟨r, rfl⟩ | ⟨i, b, -, -, rfl⟩ | ⟨f, im, -, hlive, -⟩ | ⟨f, im, -, hlive, -⟩ := busStep_cases he
  · rw [ctrl_upd]
    split <;> simp
  · rw [ctrl_upd]
    split <;> simp
  all_goals exact absurd hlive (by simp [hfinit])

/-- It also concludes no request where none is pending (R217, R218). -/
theorem busStep_clean (he : busStep d e u = some t) (hfinit : u.flt.finit = true) {c : Inst} (h : (u.ctrl c).clean) :
    (t.ctrl c).clean where
  mb i := by rw [(busStep_kept he c).mb i (h.mb i).1]; exact h.mb i
  rf f := (busStep_rf_of_finit he hfinit c f).trans (h.rf f)

/-- BUS has no step at an instance that is asleep and asks for nothing else (R224 to R226). -/
theorem busStep_asleep (he : busStep d e u = some t) {c : Inst} (hmcr : (u.ctrl c).mcr = McrReg.reset)
    (hmsr : (u.ctrl c).msr = MsrReg.reset) : t.ctrl c = u.ctrl c := by
  by_cases hc : c = d
  · subst hc
    have hmode : (u.ctrl c).normalMode = false := by rw [Ctrl.normalMode, hmcr, hmsr]; rfl
    have hnone : busStep c e u = none := by
      cases e <;>
        simp [busStep, Ctrl.canSend, Ctrl.canEnd, State.canReceive, hmode, hmcr, hmsr, McrReg.reset, MsrReg.reset]
    cases hnone.symm.trans he
  · exact busStep_ctrl_ne he hc

end

/-- Everything in the scope of the primary's reset has been reset since `s`, and outside it BUS alone has moved (R203, R266). -/
structure State.scopeReset (s u : State) : Prop where
  flt : u.flt.cleared
  primary : u.primary.clean
  taken : s.cfg.primaryResetScope = .allInstances → s.present .secondary = true →
    u.secondary.asleep { s.secondary.seq with inited := false }
  left : s.cfg.primaryResetScope = .primaryAndFilters ∨ s.present .secondary = false → s.secondary.busKept u.secondary

/-- An `INIT` of the primary issued at `s` is on its way or has ended: up to I2 BUS alone has moved at the secondary, and after
it the scope is reset. -/
structure State.primaryInit (s : State) (op : InitOp) (u : State) : Prop where
  cfg : u.cfg = s.cfg
  at_ : u.primary.seq.phase = .idle ∨ ∃ a, u.primary.seq.phase = .init op a
  stage : (u.primary.initPosition ≤ 2 ∧ s.secondary.busKept u.secondary) ∨ (3 ≤ u.primary.initPosition ∧ s.scopeReset u)

section
variable {s u m t : State} {op : InitOp} {a : InitStep} {d : Inst} {e : BusStep}

/-- The reset at I2, by its scope and by whether there is a secondary (R266; log 30). -/
theorem collabReset_scopeReset (hcfg : u.cfg = s.cfg) (hk : s.secondary.busKept u.secondary) (h : collabReset u = .next m) :
    s.scopeReset m := by
  have hpres : u.present .secondary = s.present .secondary := by simp [State.present, hcfg]
  have hclear (n : Nat) : (Filters.afterReset n).cleared := ⟨rfl, rfl, rfl, rfl, rfl⟩
  have hleft : u.cfg.primaryResetScope = .primaryAndFilters ∨ u.present .secondary = false → s.scopeReset u.resetPrimary := by
    rw [hcfg, hpres]
    intro hout
    exact ⟨hclear _, afterReset_clean _ _, fun hscope hp => by simp [hscope, hp] at hout, fun _ => hk⟩
  unfold collabReset at h
  split at h
  next hscope => cases h; exact hleft (.inl hscope)
  next hscope =>
    split at h
    next hp =>
      split at h
      · cases h
      · cases h
        refine ⟨hclear _, afterReset_clean _ _,
          fun _ _ => ⟨afterReset_clean (u.secondary.updSeq ({ · with inited := false })) _, rfl, rfl, rfl, ?_⟩, fun hout => ?_⟩
        · rw [← hk.seq]; rfl
        · rw [← hcfg, ← hpres] at hout
          simp [hscope, hp] at hout
    next hp => cases h; exact hleft (.inr (by simpa using hp))

theorem scopeReset_moved (h : s.scopeReset u) (hm : u.initMoved t .primary op a) : s.scopeReset t := by
  obtain ⟨hflt, ⟨hmb, hrf⟩, htaken, hleft⟩ := h
  have hother : t.secondary = u.secondary := hm.other
  exact ⟨by rwa [hm.flt], ⟨fun i => by rw [show t.primary.mb i = u.primary.mb i from hm.own.mb i]; exact hmb i,
    fun f => (hm.own.rf f).trans (hrf f)⟩, by rwa [hother], by rwa [hother]⟩

theorem scopeReset_bus (h : s.scopeReset u) (he : busStep d e u = some t) : s.scopeReset t := by
  obtain ⟨hflt, hprimary, htaken, hleft⟩ := h
  refine ⟨by rwa [busStep_flt he], busStep_clean (c := .primary) he hflt.1 hprimary, fun hscope hpres => ?_,
    fun hout => (hleft hout).trans (busStep_kept he .secondary)⟩
  have hasleep := htaken hscope hpres
  rwa [show t.secondary = u.secondary from busStep_asleep (c := .secondary) he hasleep.mcr hasleep.msr]

theorem primaryInit_seq (ht : timingValid op = true) (h : s.primaryInit op u) (hb : u.busy .primary = true)
    (hstep : seqStep .primary u = .next t) : s.primaryInit op t := by
  obtain ⟨hcfg, hp | ⟨a, hp⟩, hstage⟩ := h
  · exact absurd hp ((busy_iff _).1 hb)
  obtain ⟨m, hm, hmoved⟩ := initStep_eq_next (c := .primary) hp hstep
  obtain ⟨hmcfg, hmseq⟩ := collabPart_keeps hm
  refine ⟨hmoved.cfg.trans (hmcfg.trans hcfg), initMoved_phase hmoved.own, ?_⟩
  have hmp : (m.ctrl .primary).seq.phase = .init op a := by rw [hmseq]; exact hp
  have hgrow : a.position ≤ t.primary.initPosition ∧ (a.position ≤ 2 → t.primary.initPosition = a.position + 1) := by
    have hmove := initPosition_moved ht hmp hmoved.own
    unfold Ctrl.held at hmove
    rw [initPosition_init hmp] at hmove
    change _ ∧ t.primary.initPosition = _ ∨ _ ∧ t.primary.initPosition = _ at hmove
    omega
  rw [initPosition_init hp] at hstage
  by_cases ha : a = .i2
  · subst ha
    obtain ⟨-, hk⟩ := hstage.resolve_right (fun h3 => absurd h3.1 (by decide))
    exact .inr ⟨(hgrow.2 (by decide)).ge, scopeReset_moved (collabReset_scopeReset hcfg hk hm) hmoved⟩
  · rw [collabPart_of_ne (.inr ha)] at hm
    cases hm
    refine hstage.imp (fun ⟨h2, hk⟩ => ⟨?_, ?_⟩) (fun ⟨h3, hreset⟩ => ⟨h3.trans hgrow.1, scopeReset_moved hreset hmoved⟩)
    · rw [hgrow.2 h2]
      refine Nat.lt_of_le_of_ne h2 fun h => ha ?_
      cases a <;> simp_all [InitStep.position]
    · rwa [show t.secondary = u.secondary from hmoved.other]

theorem primaryInit_bus (h : s.primaryInit op u) (he : busStep d e u = some t) : s.primaryInit op t := by
  obtain ⟨hcfg, hat, hstage⟩ := h
  have hseq : t.primary.seq = u.primary.seq := (busStep_kept he .primary).seq
  refine ⟨(busStep_frame he).1.trans hcfg, by rwa [hseq], ?_⟩
  rw [show t.primary.initPosition = u.primary.initPosition from initPosition_congr hseq]
  exact hstage.imp (And.imp_right (·.trans (busStep_kept he .secondary))) (And.imp_right (scopeReset_bus · he))

end

/-- Settles O26: a run that has ended is past I2, where the reset is made, and after it neither the remaining steps nor BUS
bring anything into what has been reset. -/
theorem primaryInitResetsTheFilterBlock : Obligations.PrimaryInitResetsTheFilterBlock := by
  intro s t op hidle hquiet ht hexec hb
  rw [exec_init op hidle] at hexec
  have hstart : s.primaryInit op (s.upd .primary (·.start (.init op .i0))) :=
    ⟨rfl, .inr ⟨.i0, rfl⟩, .inl ⟨Nat.zero_le 2, .refl _⟩⟩
  obtain ⟨-, ⟨-, -, hstage⟩, -⟩ := runTurns_along (Q := fun _ u => s.primaryInit op u)
    (fun _ _ _ h hb _ hstep => primaryInit_seq ht h hb hstep)
    (fun _ _ _ _ h _ => busStep_getD h fun _ he => primaryInit_bus h he)
    (fun _ _ _ ⟨hcfg, hat, hstage⟩ => ⟨hcfg, hat, hstage.imp_right (And.imp_right fun ⟨hflt, hprimary, htaken, hleft⟩ =>
      ⟨hflt, hprimary, htaken, hleft⟩)⟩) _ _ hstart
    (by simpa [State.quiet] using hquiet) hexec
  have hpos : t.primary.initPosition = 10 := initPosition_of_idle ((not_busy_iff _).1 hb)
  obtain ⟨-, hflt, hprimary, htaken, hleft⟩ := hstage.resolve_left (by omega)
  obtain ⟨hfinit, hfm1r, hfs1r, hffa1r, hfa1r⟩ := id hflt
  refine ⟨hfinit, hfm1r, hfs1r, hffa1r, hfa1r, accepts_of_cleared hflt _, ?_, ?_, ?_⟩
  · rintro c (rfl | ⟨hscope, hpres⟩)
    · exact ⟨hprimary.mb, hprimary.rf⟩
    · cases c with
      | primary => exact ⟨hprimary.mb, hprimary.rf⟩
      | secondary => exact ⟨(htaken hscope hpres).clean.mb, (htaken hscope hpres).clean.rf⟩
  · intro hscope hpres
    obtain ⟨-, hmcr, hmsr, hbtr, hseq⟩ := htaken hscope hpres
    exact ⟨hmcr, hmsr, hbtr, hseq⟩
  · intro hout
    have hk := hleft hout
    exact ⟨hk.seq, hk.mcr, hk.btr, hk.contents, hk.head⟩

end Sys2Proof.Machine
end

section
/-! SUPPORT. What the two flag writes of `TX` do to the flags in their own step: the request at T7 and the abort request at T9
(41_transmit.md R149, R152, 45_bus_engine.md R216, R219). -/

namespace Sys2Proof.Machine

/-- An abort request stands on a pending mailbox and changes nothing else (R219). -/
theorem abort_of_pending {m : Mailbox} (h : m.ti.txrq = true) : m.abort = { m with abrq := true } := by
  simp [Mailbox.abort, h]

/-- An abort request is lost on an empty mailbox (R152, R219). -/
theorem abort_of_empty {m : Mailbox} (h : m.ti.txrq = false) : m.abort = m := by
  simp [Mailbox.abort, h]

/-- The mailbox that `TX` has selected after a step is what the step writes to it. -/
theorem txMoved_selected {k l : Ctrl} {c : Inst} {budget : Nat} {fr : Frame} {a : TxStep}
    (h : k.txMoved l c budget fr a) : l.mb k.seq.sel = a.write (k.mb k.seq.sel) := by
  rw [h.mb, if_pos rfl]

/-- Settles O38, by the write that T7 makes to the selected mailbox alone. -/
theorem requestClearsStaleFlags : Obligations.RequestClearsStaleFlags := by
  intro s c fr hp
  obtain ⟨t, hstep, -, hmoved⟩ := txStep_moves hp
  refine ⟨t, hstep, ?_⟩
  rw [txMoved_selected hmoved]
  exact ⟨rfl, rfl, rfl, rfl, rfl, rfl, fun j hj => by rw [hmoved.mb, if_neg hj]⟩

/-- Settles O39: T9 ends the command, and its write reaches the mailbox as `Mailbox.abort` says, by whether it is pending. -/
theorem abortRequestOnEmptyMailboxHasNoEffect : Obligations.AbortRequestOnEmptyMailboxHasNoEffect := by
  rintro s c fr _ hp rfl -
  obtain ⟨t, hstep, -, hmoved⟩ := txStep_moves hp
  obtain ⟨hidle, hresp⟩ : (t.ctrl c).txAt fr (.error .timeout) := hmoved.next
  refine ⟨t, hstep, hresp, (not_busy_iff _).2 hidle, ?_⟩
  rw [txMoved_selected hmoved]
  exact ⟨abort_of_pending, abort_of_empty⟩

end Sys2Proof.Machine
end

section
/-! SUPPORT. The guards and effects of the other steps of BUS (45_bus_engine.md R217, R218, R224 to R226, R230, R236), and what
none of them writes (R237). -/

namespace Sys2Proof.Machine

section
variable {s t : State} {c : Inst}

/-! ## The mode steps -/

/-- The guard and the effect of BUS-INAK-SET (R224). -/
theorem busStep_inakSet_eq_some :
    busStep c .inakSet s = some t ↔
      ((s.ctrl c).mcr.inrq = true ∧ (s.ctrl c).mcr.sleep = false ∧ (s.ctrl c).msr.inak = false) ∧
        (s.upd c fun k => { k with msr := { k.msr with inak := true } }) = t := by
  simp [busStep, and_assoc]

/-- The guard and the effect of BUS-INAK-CLR (R225). -/
theorem busStep_inakClr_eq_some :
    busStep c .inakClr s = some t ↔
      ((s.ctrl c).mcr.inrq = false ∧ (s.ctrl c).msr.inak = true) ∧
        (s.upd c fun k => { k with msr := { k.msr with inak := false } }) = t := by
  simp [busStep]

/-- The guard and the effect of BUS-SLAK-CLR (R225). -/
theorem busStep_slakClr_eq_some :
    busStep c .slakClr s = some t ↔
      ((s.ctrl c).mcr.sleep = false ∧ (s.ctrl c).msr.slak = true) ∧
        (s.upd c fun k => { k with msr := { k.msr with slak := false } }) = t := by
  simp [busStep]

end

/-- A change of `MSR` changes nothing else. -/
theorem updMsr_frame (s : State) (c : Inst) (g : MsrReg → MsrReg) :
    (s.upd c fun k => { k with msr := g k.msr }).flt = s.flt ∧
      (s.upd c fun k => { k with msr := g k.msr }).ctrl c.other = s.ctrl c.other ∧
      (s.upd c fun k => { k with msr := g k.msr }).ctrl c =
        { s.ctrl c with msr := ((s.upd c fun k => { k with msr := g k.msr }).ctrl c).msr } := by
  simp

/-- Settles O59, by the guard and the effect of each of the three steps. -/
theorem busAcknowledgesModeRequests : Obligations.BusAcknowledgesModeRequests := by
  intro s c
  refine ⟨by simp [Option.isSome_iff_exists, busStep_inakSet_eq_some],
    by simp [Option.isSome_iff_exists, busStep_inakClr_eq_some],
    by simp [Option.isSome_iff_exists, busStep_slakClr_eq_some], fun t h => ?_, fun t h => ?_, fun t h => ?_,
    fun e t he h => ?_⟩
  · obtain ⟨-, rfl⟩ := busStep_inakSet_eq_some.1 h
    rw [ctrl_upd_same]
  · obtain ⟨-, rfl⟩ := busStep_inakClr_eq_some.1 h
    rw [ctrl_upd_same]
  · obtain ⟨-, rfl⟩ := busStep_slakClr_eq_some.1 h
    rw [ctrl_upd_same]
  · simp only [List.mem_cons, List.not_mem_nil, or_false] at he
    obtain rfl | rfl | rfl := he
    · obtain ⟨-, rfl⟩ := busStep_inakSet_eq_some.1 h
      exact updMsr_frame s c ({ · with inak := true })
    · obtain ⟨-, rfl⟩ := busStep_inakClr_eq_some.1 h
      exact updMsr_frame s c ({ · with inak := false })
    · obtain ⟨-, rfl⟩ := busStep_slakClr_eq_some.1 h
      exact updMsr_frame s c ({ · with slak := false })

/-! ## The transmit steps -/

/-- The guard and the effect of BUS-TX-OK (R217, R236; log 10). -/
theorem busStep_txOk_eq_some {s t : State} {c : Inst} {i : Mb} :
    busStep c (.txOk i) s = some t ↔
      (s.ctrl c).normalMode = true ∧ ((s.ctrl c).mb i).ti.txrq = true ∧
        ((s.ctrl c).silm = true → (s.ctrl c).lbkm = true) ∧ (s.upd c fun k => k.updMb i (Mailbox.conclude true)) = t := by
  simp [busStep, Ctrl.canSend, and_assoc, imp_iff_not_or]

/-- The guard and the effect of BUS-TX-END (R218). -/
theorem busStep_txEnd_eq_some {s t : State} {c : Inst} {i : Mb} :
    busStep c (.txEnd i) s = some t ↔
      (s.ctrl c).normalMode = true ∧ ((s.ctrl c).mb i).ti.txrq = true ∧
        (((s.ctrl c).mb i).abrq = true ∨ (s.ctrl c).mcr.nart = true) ∧
        (s.upd c fun k => k.updMb i (Mailbox.conclude false)) = t := by
  simp [busStep, Ctrl.canEnd, and_assoc]

/-- Settles O46, by the guards of the two steps and their common effect on the mailbox. -/
theorem busConcludesOnlyPendingRequests : Obligations.BusConcludesOnlyPendingRequests := by
  intro s t c i sent h
  have hguard : (s.ctrl c).normalMode = true ∧ ((s.ctrl c).mb i).ti.txrq = true ∧
      (sent = false → ((s.ctrl c).mb i).abrq = true ∨ (s.ctrl c).mcr.nart = true) ∧
      (sent = true → (s.ctrl c).silm = true → (s.ctrl c).lbkm = true) ∧
      (s.upd c fun k => k.updMb i (Mailbox.conclude sent)) = t := by
    cases sent with
    | true =>
      obtain ⟨hmode, hpending, hdrives, ht⟩ := busStep_txOk_eq_some.1 h
      exact ⟨hmode, hpending, nofun, fun _ => hdrives, ht⟩
    | false =>
      obtain ⟨hmode, hpending, hcause, ht⟩ := busStep_txEnd_eq_some.1 h
      exact ⟨hmode, hpending, fun _ => hcause, nofun, ht⟩
  obtain ⟨hmode, hpending, hunsent, hsent, rfl⟩ := hguard
  obtain ⟨hinrq, hinak, hslak⟩ := (Ctrl.normalMode_iff _).1 hmode
  refine ⟨hinrq, hinak, hslak, hpending, hunsent, hsent, ?_⟩
  rw [ctrl_upd_same, mb_updMb_same]
  exact ⟨rfl, fun j hj => mb_updMb_ne _ _ hj, fun f => updMb_rf _ _ _ _⟩

/-! ## BUS-OVERRUN -/

/-- The guard and the effect of BUS-OVERRUN (R228, R230). -/
theorem busStep_overrun_eq_some {s t : State} {c : Inst} {f : Fifo} {fr : BusFrame} {junk : Junk} :
    busStep c (.overrun f fr junk) s = some t ↔
      s.canReceive c f fr = true ∧ ((s.ctrl c).rf f).queue.length = fifoDepth ∧
        (s.upd c fun k => k.updRf f (·.overrun k.mcr.rflm (storedImage fr junk))) = t := by
  simp only [busStep, Option.ite_none_right_eq_some, Option.some.injEq, Bool.and_eq_true, decide_eq_true_eq, and_assoc]

/-- With `RFLM` the arriving frame is discarded (R230). -/
theorem overrun_queue_locked (q : RxFifo) (e : Entry) : (q.overrun true e).queue = q.queue := rfl

/-- Without `RFLM` it takes the place of the newest entry (R230). -/
theorem overrun_queue_unlocked (q : RxFifo) (e : Entry) : (q.overrun false e).queue = q.queue.dropLast ++ [e] := rfl

/-- Either way the length is kept, and all entries but the newest (R230). -/
theorem overrun_keeps_older {q : RxFifo} (h : q.queue.length = fifoDepth) (rflm : Bool) (e : Entry) :
    (q.overrun rflm e).queue.length = fifoDepth ∧ (q.overrun rflm e).queue.take 2 = q.queue.take 2 := by
  obtain ⟨a, b, d, hq⟩ := List.length_eq_three.1 h
  cases rflm
  · rw [overrun_queue_unlocked, hq]; exact ⟨rfl, rfl⟩
  · rw [overrun_queue_locked, hq]; exact ⟨rfl, rfl⟩

theorem overrun_newest {q : RxFifo} (h : q.queue.length = fifoDepth) (e : Entry) :
    (q.overrun false e).queue[2]? = some e := by
  obtain ⟨a, b, d, hq⟩ := List.length_eq_three.1 h
  rw [overrun_queue_unlocked, hq]; rfl

/-- Settles O48, by the guard of the step and its effect on the full FIFO that it names. -/
theorem overrunKeepsTheHead : Obligations.OverrunKeepsTheHead := by
  intro s t c f fr junk h
  obtain ⟨hreceive, hfull, rfl⟩ := busStep_overrun_eq_some.1 h
  obtain ⟨hmode, hlive, haccepts⟩ := (canReceive_iff s c f fr).1 hreceive
  obtain ⟨hinrq, hinak, hslak⟩ := (Ctrl.normalMode_iff _).1 hmode
  obtain ⟨hlength, holder⟩ := overrun_keeps_older hfull (s.ctrl c).mcr.rflm (storedImage fr junk)
  refine ⟨hinrq, hinak, hslak, hlive, (Filters.accepts_iff _ _ _ _).1 haccepts, hfull, ?_⟩
  rw [ctrl_upd_same, rf_updRf_same]
  refine ⟨hlength, rfl, rfl, holder, fun hlock => ?_, fun hlock => ?_, fun g hg => rf_updRf_ne _ _ hg,
    fun i => updRf_mb _ _ _ _⟩
  · rw [hlock, overrun_queue_locked]
  · rw [hlock, overrun_newest hfull]

/-! ## What no step of BUS writes -/

/-- Settles O45, by what every step of BUS keeps of the state, of its own instance and of the other one. -/
theorem busNeverWritesWhatSeqOwns : Obligations.BusNeverWritesWhatSeqOwns := by
  intro s t c e h
  have hk := busStep_kept h c
  refine ⟨busStep_flt h, (busStep_frame h).1, busStep_ctrl_ne h (other_ne c), hk.mcr, hk.btr, hk.seq, hk.cmd, hk.resp,
    fun i => ⟨hk.contents i, fun hempty => ?_, hk.tme i⟩, fun f => ⟨hk.length f, hk.head f⟩⟩
  rw [hk.mb i hempty, hempty]

end Sys2Proof.Machine
end

section
/-! SUPPORT. The four rows of the default acceptance test, bit by bit (45_bus_engine.md R231). -/

namespace Sys2Proof.Machine

/-! ## Comparisons under a mask -/

/-- Two words agree under a mask when they agree in every bit that it names. -/
theorem and_eq_and_iff {w : Nat} (x y m : BitVec w) :
    x &&& m = y &&& m ↔ ∀ n, n < w → m.getLsbD n = true → x.getLsbD n = y.getLsbD n := by
  simp only [BitVec.eq_of_getLsbD_eq_iff, BitVec.getLsbD_and]
  refine forall₂_congr fun n _ => ?_
  cases m.getLsbD n <;> simp

/-- The same by their difference. -/
theorem xor_and_eq_zero_iff {w : Nat} (x y m : BitVec w) :
    (x ^^^ y) &&& m = 0 ↔ ∀ n, n < w → m.getLsbD n = true → x.getLsbD n = y.getLsbD n := by
  simp only [BitVec.eq_of_getLsbD_eq_iff, BitVec.getLsbD_and, BitVec.getLsbD_xor, BitVec.ofNat_eq_ofNat, BitVec.getLsbD_zero]
  refine forall₂_congr fun n _ => ?_
  cases m.getLsbD n <;> simp

/-- The 32-bit rows leave bit 0 out of the comparison. -/
theorem idMask_getLsbD {n : Nat} (h : n < 32) : (0xFFFFFFFE : Word).getLsbD n = true ↔ 1 ≤ n := by
  decide +revert

/-- A half of a register bit by bit. -/
theorem half_getLsbD (r : Word) (start : Nat) {n : Nat} (h : n < 16) :
    (r.extractLsb' start 16).getLsbD n = r.getLsbD (start + n) := by
  simp [h]

/-- A 16-bit value is a half of a register when it has the half's bits. -/
theorem eq_half_iff (v : BitVec 16) (r : Word) (start : Nat) :
    v = r.extractLsb' start 16 ↔ ∀ n, n < 16 → v.getLsbD n = r.getLsbD (start + n) := by
  rw [BitVec.eq_of_getLsbD_eq_iff]
  exact forall₂_congr fun n hn => by rw [half_getLsbD r start hn]

/-! ## The four rows -/

/-- Agreement of a value with a register wherever a mask says so, bit 0 apart. -/
theorem mask32_iff (u r m : Word) :
    (u ^^^ r) &&& m &&& 0xFFFFFFFE = 0 ↔
      ∀ n, 1 ≤ n → n < 32 → m.getLsbD n = true → u.getLsbD n = r.getLsbD n := by
  simp only [BitVec.and_assoc, xor_and_eq_zero_iff, BitVec.getLsbD_and, Bool.and_eq_true, and_imp]
  exact forall_congr' fun n => ⟨fun h hn hlt hm => h hlt hm ((idMask_getLsbD hlt).2 hn),
    fun h hlt hm he => h ((idMask_getLsbD hlt).1 he) hlt hm⟩

/-- Agreement of a value with a register in every bit but bit 0. -/
theorem list32_iff (u r : Word) :
    u &&& 0xFFFFFFFE = r &&& 0xFFFFFFFE ↔ ∀ n, 1 ≤ n → n < 32 → u.getLsbD n = r.getLsbD n := by
  rw [and_eq_and_iff]
  exact forall_congr' fun n => ⟨fun h hn hlt => h hlt ((idMask_getLsbD hlt).2 hn),
    fun h hlt he => h ((idMask_getLsbD hlt).1 he) hlt⟩

/-- Agreement of a value with the low half of a register wherever its high half says so. -/
theorem mask16_iff (h : BitVec 16) (r : Word) :
    (h ^^^ r.extractLsb' 0 16) &&& r.extractLsb' 16 16 = 0 ↔
      ∀ n, n < 16 → r.getLsbD (16 + n) = true → h.getLsbD n = r.getLsbD n := by
  rw [xor_and_eq_zero_iff]
  refine forall₂_congr fun n hn => ?_
  rw [half_getLsbD r 16 hn, half_getLsbD r 0 hn, Nat.zero_add]

section
variable (a b : Word) (fr : BusFrame)

theorem matchStandard_mask32 :
    matchStandard true false a b fr = true ↔
      ∀ n, 1 ≤ n → n < 32 → b.getLsbD n = true → (idImage fr.id fr.rtr).getLsbD n = a.getLsbD n := by
  simp only [matchStandard, beq_iff_eq]
  exact mask32_iff _ a b

theorem matchStandard_list32 :
    matchStandard true true a b fr = true ↔
      (∀ n, 1 ≤ n → n < 32 → (idImage fr.id fr.rtr).getLsbD n = a.getLsbD n) ∨
      (∀ n, 1 ≤ n → n < 32 → (idImage fr.id fr.rtr).getLsbD n = b.getLsbD n) := by
  simp only [matchStandard, Bool.or_eq_true, beq_iff_eq]
  exact or_congr (list32_iff _ a) (list32_iff _ b)

theorem matchStandard_mask16 :
    matchStandard false false a b fr = true ↔
      (∀ n, n < 16 → a.getLsbD (16 + n) = true → (x16 fr.id fr.rtr).getLsbD n = a.getLsbD n) ∨
      (∀ n, n < 16 → b.getLsbD (16 + n) = true → (x16 fr.id fr.rtr).getLsbD n = b.getLsbD n) := by
  simp only [matchStandard, Bool.or_eq_true, beq_iff_eq]
  exact or_congr (mask16_iff _ a) (mask16_iff _ b)

theorem matchStandard_list16 :
    matchStandard false true a b fr = true ↔
      (∀ n, n < 16 → (x16 fr.id fr.rtr).getLsbD n = a.getLsbD n) ∨
      (∀ n, n < 16 → (x16 fr.id fr.rtr).getLsbD n = a.getLsbD (16 + n)) ∨
      (∀ n, n < 16 → (x16 fr.id fr.rtr).getLsbD n = b.getLsbD n) ∨
      (∀ n, n < 16 → (x16 fr.id fr.rtr).getLsbD n = b.getLsbD (16 + n)) := by
  simp only [matchStandard, Bool.or_eq_true, beq_iff_eq, eq_half_iff, Nat.zero_add, or_assoc]

end

/-- The default rule compares by the bank's scale, mode and registers (R231). -/
theorem matchBank_standard {flt : Filters} {b : Fin 28} {scale mode : Bool} (hscale : flt.fs1r.getLsbD b = scale)
    (hmode : flt.fm1r.getLsbD b = mode) (fr : BusFrame) :
    matchBank .standard flt b fr = matchStandard scale mode flt.fr1[b] flt.fr2[b] fr := by
  rw [matchBank, hscale, hmode]

/-- Settles O50, by the row of 32-bit mask banks. -/
theorem maskBankComparesTheMaskedBits : Obligations.MaskBankComparesTheMaskedBits := by
  intro flt b fr hscale hmode
  rw [matchBank_standard hscale hmode]
  exact matchStandard_mask32 _ _ fr

/-! ## The value that the 16-bit rows compare -/

/-- The four fields of a value that is put together from them. -/
theorem append_fields (hi : BitVec 11) (rtr : Bool) (ide : BitVec 1) (lo : BitVec 3) :
    (hi ++ BitVec.ofBool rtr ++ ide ++ lo).getLsbD 4 = rtr ∧
      (hi ++ BitVec.ofBool rtr ++ ide ++ lo).extractLsb' 5 11 = hi ∧
      (hi ++ BitVec.ofBool rtr ++ ide ++ lo).getLsbD 3 = ide.getLsbD 0 ∧
      (hi ++ BitVec.ofBool rtr ++ ide ++ lo).extractLsb' 0 3 = lo := by
  simp only [BitVec.eq_of_getLsbD_eq_iff, BitVec.getLsbD_extractLsb', BitVec.getLsbD_append, BitVec.getLsbD_ofBool]
  grind

/-- Settles O60, by the fields of `x16` and the other three rows. -/
theorem otherBankModesCompareAsTheirRowSays : Obligations.OtherBankModesCompareAsTheirRowSays := by
  refine ⟨fun id rtr => ?_, fun flt b fr => ⟨fun hscale hmode => ?_, fun hscale hmode => ?_, fun hscale hmode => ?_⟩⟩
  · cases id with
    | base n =>
      obtain ⟨hrtr, hfields⟩ := append_fields n rtr 0#1 0#3
      exact ⟨hrtr, fun m hm => by cases hm; exact hfields, nofun⟩
    | ext n =>
      obtain ⟨hrtr, hfields⟩ := append_fields (n.extractLsb' 18 11) rtr 1#1 (n.extractLsb' 15 3)
      exact ⟨hrtr, nofun, fun m hm => by cases hm; exact hfields⟩
  · rw [matchBank_standard hscale hmode]
    exact matchStandard_list32 _ _ fr
  · rw [matchBank_standard hscale hmode]
    exact matchStandard_mask16 _ _ fr
  · rw [matchBank_standard hscale hmode]
    exact matchStandard_list16 _ _ fr

end Sys2Proof.Machine
end

section
/-! SUPPORT. `INIT` under `BUS_HEALTHY` (44_init.md R201, R205, R206, 45_bus_engine.md R222, 60_exceptions.md R251): a rank that no
turn lowers, and that a turn which must come raises. -/

namespace Sys2Proof.Machine

/-! ## The command past its validation -/

section
variable {k l : Ctrl} {op : InitOp} {wait : Bool} {a : InitStep}

/-- The command has returned `Ok`. -/
def Ctrl.initReturned (l : Ctrl) : Prop := (l.seq.phase = .idle ∧ l.resp = ⟨0, 0, 0, 0, 0⟩) ∧ l.seq.inited = true

/-- The `INIT` is past its validation (R201). -/
def Ctrl.initValidated (l : Ctrl) (op : InitOp) : Prop := ∃ a, a ≠ .i0 ∧ l.seq.phase = .init op a

/-- A step past the validation returns `Ok`, repeats an `await` that is held, or goes on to the next one. -/
theorem initMoved_validated (ha : a ≠ .i0) (hp : k.seq.phase = .init op a) (hm : k.initMoved l op wait a) :
    l.initReturned ∨ l.initValidated op ∧
      (k.held wait ∧ l.initPosition = k.initPosition ∨ ¬ k.held wait ∧ l.initPosition = k.initPosition + 1) := by
  have hnext := hm.next
  unfold Ctrl.held
  rw [initPosition_init hp]
  cases a with
  | i0 => exact absurd rfl ha
  | i9 => exact .inl ⟨hnext, hm.inited⟩
  | i4 =>
    refine .inr ⟨⟨_, ?_, hnext⟩, ?_⟩
    · split <;> simp
    · rw [initPosition_init hnext]
      cases k.msr.inak <;> simp [InitStep.position]
  | i8 =>
    refine .inr ⟨⟨_, ?_, hnext⟩, ?_⟩
    · split <;> simp
    · rw [initPosition_init hnext]
      cases wait <;> cases k.msr.inak <;> simp [InitStep.position]
  | _ =>
    refine .inr ⟨⟨_, by simp, hnext⟩, ?_⟩
    rw [initPosition_init hnext]
    simp [InitStep.position]

theorem initPosition_lt (h : k.initValidated op) : k.initPosition < 10 := by
  obtain ⟨a, -, hp⟩ := h
  rw [initPosition_init hp]
  cases a <;> decide

/-- The requests in `MCR` at the two steps that can wait (R201, R252). -/
theorem requests_of_position {budget : Nat} (h : k.initValidated op) (hinv : k.phaseInv budget = true) :
    (k.initPosition = 4 → k.mcr.inrq = true ∧ k.mcr.sleep = false) ∧ (k.initPosition = 8 → k.mcr.inrq = false) := by
  obtain ⟨a, -, hp⟩ := h
  rw [phaseInv_init hp] at hinv
  rw [initPosition_init hp]
  cases a <;> simp_all [InitStep.position, Ctrl.initInv]

end

/-! ## The rank -/

/-- Twice the number of the step that an `INIT` is at, and one more where it does not wait there. -/
def State.initRank (u : State) (c : Inst) : Nat := 2 * (u.ctrl c).initPosition + if u.waiting c then 0 else 1

section
variable {s t u : State} {c : Inst}

/-- A sequencer waits exactly where its `INIT` is held. -/
theorem waiting_iff_held : u.waiting c = true ↔ (u.ctrl c).held (u.exitAckWait c) := by
  refine ⟨held_of_waiting, fun h => ?_⟩
  unfold Ctrl.held Ctrl.initPosition at h
  unfold State.waiting
  split at h
  next a hp => rw [hp]; cases a <;> simp_all [InitStep.position]
  next => simp at h

theorem initRank_waiting (h : u.waiting c = true) : u.initRank c = 2 * (u.ctrl c).initPosition := by
  simp [State.initRank, h]

theorem initRank_free (h : u.waiting c = false) : u.initRank c = 2 * (u.ctrl c).initPosition + 1 := by
  simp [State.initRank, h]

theorem initRank_bounds (u : State) (c : Inst) :
    2 * (u.ctrl c).initPosition ≤ u.initRank c ∧ u.initRank c ≤ 2 * (u.ctrl c).initPosition + 1 := by
  cases h : u.waiting c
  · rw [initRank_free h]; omega
  · rw [initRank_waiting h]; omega

/-- The rank tells the step and whether the command waits there. -/
theorem waiting_of_initRank_eq (h : t.initRank c = u.initRank c) :
    t.waiting c = u.waiting c ∧ (t.ctrl c).initPosition = (u.ctrl c).initPosition := by
  unfold State.initRank at h
  cases ht : t.waiting c <;> cases hu : u.waiting c <;> simp [ht, hu] at h ⊢ <;> omega

/-- The acknowledgement that an `INIT` waiting at that step needs (R205, R206). -/
def ackAt (position : Nat) : BusStep := if position = 4 then .inakSet else .inakClr

/-- The turn that raises the rank: that acknowledgement where the command waits, and else its own next step. -/
def State.helpful (u : State) (c : Inst) : Turn :=
  if u.waiting c then .bus c (ackAt (u.ctrl c).initPosition) else .seq c

theorem helpful_waiting (h : u.waiting c = true) : u.helpful c = .bus c (ackAt (u.ctrl c).initPosition) := if_pos h

theorem helpful_free (h : u.waiting c = false) : u.helpful c = .seq c := if_neg (by simp [h])

/-- It is the same turn as long as the rank is the same. -/
theorem helpful_congr (h : t.initRank c = u.initRank c) : t.helpful c = u.helpful c := by
  obtain ⟨hwait, hpos⟩ := waiting_of_initRank_eq h
  unfold State.helpful
  rw [hwait, hpos]

end

/-! ## One turn -/

/-- An `INIT` that instance `c` has validated by `s` is on its way, with nothing in the way of the reset at I2. -/
structure State.initGoing (s : State) (c : Inst) (op : InitOp) (u : State) : Prop where
  cfg : u.cfg = s.cfg
  inv : u.inv = true
  allowed : u.resetAllowed c = true
  own : (u.ctrl c).initValidated op

section
variable {s u m t : State} {c d : Inst} {op : InitOp} {a : InitStep} {e : BusStep} {x : Turn}

/-- A step of the instance's own `INIT` starts no command that the reset would meet. -/
theorem resetAllowed_moved (hm : collabPart c a u = .next m) (hmoved : m.initMoved t c op a)
    (h : u.resetAllowed c = true) : t.resetAllowed c = true := by
  rw [resetAllowed_congr (hmoved.cfg.trans (collabPart_keeps hm).1), h]
  rintro rfl
  rw [State.busy_def, show t.ctrl .secondary = m.ctrl .secondary from hmoved.other]
  exact collabPart_busy hm

/-- The reset at I2 is made where no step is held. -/
theorem collabPart_held (hm : collabPart c a u = .next m) (hp : (u.ctrl c).seq.phase = .init op a) (wait : Bool) :
    (m.ctrl c).held wait ↔ (u.ctrl c).held wait := by
  by_cases ha : a = .i2
  · subst ha
    have hmp : (m.ctrl c).seq.phase = .init op .i2 := by rw [(collabPart_keeps hm).2, hp]
    simp [Ctrl.held, initPosition_init hp, initPosition_init hmp, InitStep.position]
  · rw [collabPart_of_ne (.inr ha)] at hm
    cases hm
    rfl

/-- A step of the command returns `Ok`, or keeps the command on its way, with a higher rank if it did not wait. -/
theorem initGoing_seq (h : s.initGoing c op u) :
    ∃ t, seqStep c u = .next t ∧ ((t.ctrl c).initReturned ∨ s.initGoing c op t ∧ u.initRank c ≤ t.initRank c ∧
      (u.waiting c = false → u.initRank c < t.initRank c)) := by
  obtain ⟨hcfg, hinv, hallowed, a, ha, hp⟩ := h
  obtain ⟨m, hm⟩ := collabPart_of_allowed (a := a) hallowed
  obtain ⟨t, hstep, hmoved⟩ := initStep_moves hp hm
  obtain ⟨hmcfg, hmseq⟩ := collabPart_keeps hm
  have hmp : (m.ctrl c).seq.phase = .init op a := by rw [hmseq, hp]
  refine ⟨t, hstep, (initMoved_validated ha hmp hmoved.own).imp_right fun ⟨hown, hmove⟩ =>
    ⟨⟨hmoved.cfg.trans (hmcfg.trans hcfg), seqStep_inv hinv hstep, resetAllowed_moved hm hmoved hallowed, hown⟩, ?_⟩⟩
  rw [exitAckWait_congr hmcfg, collabPart_held hm hp, initPosition_congr hmseq, ← waiting_iff_held] at hmove
  have hle := (initRank_bounds t c).1
  obtain ⟨hwait, hpos⟩ | ⟨hfree, hpos⟩ := hmove
  · rw [initRank_waiting hwait]
    exact ⟨by omega, fun hfree => by simp [hwait] at hfree⟩
  · rw [initRank_free (by simpa using hfree)]
    exact ⟨by omega, fun _ => by omega⟩

/-- No step of BUS makes an `INIT` wait that did not (R224, R225). -/
theorem busStep_not_waiting (h : s.initGoing c op u) (he : busStep d e u = some t) (hfree : u.waiting c = false) :
    t.waiting c = false := by
  obtain ⟨h4, h8⟩ := requests_of_position h.own (State.inv_ctrl h.inv c).2
  rw [Bool.eq_false_iff, Ne, waiting_iff_held] at hfree ⊢
  unfold Ctrl.held at hfree ⊢
  rw [initPosition_congr (busStep_kept he c).seq, exitAckWait_congr (busStep_frame he).1]
  rintro (⟨hpos, hinak⟩ | ⟨hpos, hwait, hinak⟩)
  · have hset : (u.ctrl c).msr.inak = true := by simpa [hpos] using hfree
    rw [busStep_inak he (h4 hpos).1 hset] at hinak
    cases hinak
  · have hclear : (u.ctrl c).msr.inak = false := by simpa [hpos, hwait] using hfree
    rw [busStep_inak_clear he (h8 hpos) hclear] at hinak
    cases hinak

/-- A step of BUS keeps the command on its way, with a higher rank where it ends a wait. -/
theorem initGoing_bus (h : s.initGoing c op u) (he : busStep d e u = some t) :
    s.initGoing c op t ∧ u.initRank c ≤ t.initRank c ∧
      (u.waiting c = true → t.waiting c = false → u.initRank c < t.initRank c) := by
  have hk := busStep_kept he
  have hcfg := (busStep_frame he).1
  have hpos := initPosition_congr (hk c).seq
  refine ⟨⟨hcfg.trans h.cfg, busStep_inv h.inv he, ?_, ?_⟩, ?_⟩
  · rw [resetAllowed_congr hcfg fun _ => by rw [State.busy_def, (hk .secondary).seq, State.busy_def], h.allowed]
  · obtain ⟨a, ha, hp⟩ := h.own
    exact ⟨a, ha, by rw [(hk c).seq, hp]⟩
  · cases hwait : u.waiting c with
    | true =>
      have hle := (initRank_bounds t c).1
      rw [initRank_waiting hwait]
      exact ⟨by omega, fun _ hfree => by rw [initRank_free hfree]; omega⟩
    | false =>
      rw [initRank_free hwait, initRank_free (busStep_not_waiting h he hwait)]
      exact ⟨by omega, nofun⟩

theorem present_congr (h : t.cfg = s.cfg) (c : Inst) : t.present c = s.present c := by
  cases c <;> simp [State.present, h]

theorem turn_seq (h : u.present c = true) : turn (.seq c) u = seqStep c u := if_pos h

theorem turn_bus (h : u.present d = true) : turn (.bus d e) u = .next ((busStep d e u).getD u) := if_pos h

/-- A turn of the instance's own SEQ or of BUS never stops the machine, and lowers no rank. -/
theorem initGoing_turn (h : s.initGoing c op u) (hown : x.ownOrBus c = true) (hpres : s.present x.inst = true) :
    ∃ t, turn x u = .next t ∧ ((t.ctrl c).initReturned ∨ s.initGoing c op t ∧ u.initRank c ≤ t.initRank c) := by
  rw [← present_congr h.cfg] at hpres
  cases x with
  | host d b => cases hown
  | seq d =>
    obtain rfl : d = c := by simpa [Turn.ownOrBus] using hown
    obtain ⟨t, hstep, hend⟩ := initGoing_seq h
    exact ⟨t, (turn_seq hpres).trans hstep, hend.imp_right fun ⟨hgo, hle, _⟩ => ⟨hgo, hle⟩⟩
  | bus d e =>
    refine ⟨_, turn_bus hpres, .inr ?_⟩
    refine busStep_getD (P := fun t => s.initGoing c op t ∧ u.initRank c ≤ t.initRank c) ⟨h, le_rfl⟩ fun t he => ?_
    obtain ⟨hgo, hle, -⟩ := initGoing_bus h he
    exact ⟨hgo, hle⟩

/-- Where the command waits, the acknowledgement is one of the steps that a healthy BUS owes, and it ends the wait. -/
theorem ack_enabled (h : s.initGoing c op u) (hwait : u.waiting c = true) :
    u.duty c (ackAt (u.ctrl c).initPosition) = true ∧
      ∃ t, busStep c (ackAt (u.ctrl c).initPosition) u = some t ∧ t.waiting c = false := by
  obtain ⟨h4, h8⟩ := requests_of_position h.own (State.inv_ctrl h.inv c).2
  obtain ⟨hpos, hinak⟩ | ⟨hpos, -, hinak⟩ := held_of_waiting hwait
  · obtain ⟨hinrq, hsleep⟩ := h4 hpos
    have hset := busStep_inakSet_eq_some.2 ⟨⟨hinrq, hsleep, hinak⟩, rfl⟩
    rw [hpos]
    refine ⟨Option.isSome_of_eq_some hset, _, hset, ?_⟩
    rw [Bool.eq_false_iff, Ne, waiting_iff_held]
    simp [Ctrl.held, hpos]
  · have hclr := busStep_inakClr_eq_some.2 ⟨⟨h8 hpos, hinak⟩, rfl⟩
    rw [hpos]
    refine ⟨Option.isSome_of_eq_some hclr, _, hclr, ?_⟩
    rw [Bool.eq_false_iff, Ne, waiting_iff_held]
    simp [Ctrl.held, hpos]

theorem helpful_raises (hpres : s.present c = true) (h : s.initGoing c op u) :
    ∃ t, turn (u.helpful c) u = .next t ∧
      ((t.ctrl c).initReturned ∨ s.initGoing c op t ∧ u.initRank c < t.initRank c) := by
  rw [← present_congr h.cfg] at hpres
  cases hwait : u.waiting c with
  | true =>
    obtain ⟨-, t, he, hfree⟩ := ack_enabled h hwait
    obtain ⟨hgo, -, hlt⟩ := initGoing_bus h he
    refine ⟨t, ?_, .inr ⟨hgo, hlt hwait hfree⟩⟩
    rw [helpful_waiting hwait, turn_bus hpres, he, Option.getD_some]
  | false =>
    obtain ⟨t, hstep, hend⟩ := initGoing_seq h
    refine ⟨t, ?_, hend.imp_right fun ⟨hgo, _, hlt⟩ => ⟨hgo, hlt hwait⟩⟩
    rw [helpful_free hwait, turn_seq hpres, hstep]

end

/-! ## The schedule -/

section
variable {sched : Nat → Turn} {s u : State} {c : Inst} {op : InitOp} {n : Nat}

/-- On a fair schedule with a healthy BUS the helpful turn comes, as long as the rank stays (R222). -/
theorem helpful_comes (hruns : SeqRuns sched c) (hhealthy : BusHealthy sched s c)
    (hstay : ∀ m, n ≤ m → ∃ t, after sched s m = .next t ∧ s.initGoing c op t ∧ t.initRank c = u.initRank c) :
    ∃ m, n ≤ m ∧ sched m = u.helpful c := by
  cases hwait : u.waiting c with
  | true =>
    obtain ⟨m, hm, hturn⟩ := hhealthy (ackAt (u.ctrl c).initPosition) n
    refine ⟨m, hm, ?_⟩
    rw [helpful_waiting hwait]
    refine hturn.resolve_right fun hnot => ?_
    obtain ⟨t, ht, hgo, hrank⟩ := hstay m hm
    obtain ⟨hwait', hpos⟩ := waiting_of_initRank_eq hrank
    have hduty := (ack_enabled hgo (hwait'.trans hwait)).1
    rw [hpos, hnot t ht] at hduty
    cases hduty
  | false =>
    obtain ⟨m, hm, hturn⟩ := hruns n
    exact ⟨m, hm, by rw [helpful_free hwait, hturn]⟩

variable (hown : ∀ n, (sched n).ownOrBus c = true ∧ s.present (sched n).inst = true)
include hown

/-- The command returns, or is still on its way after any number of further turns. -/
theorem initGoing_after (h : after sched s n = .next u) (hu : s.initGoing c op u) {m : Nat} (hm : n ≤ m) :
    (∃ k t, after sched s k = .next t ∧ (t.ctrl c).initReturned) ∨
      ∃ t, after sched s m = .next t ∧ s.initGoing c op t ∧ u.initRank c ≤ t.initRank c := by
  induction m, hm using Nat.le_induction with
  | base => exact .inr ⟨u, h, hu, le_rfl⟩
  | succ m _ ih =>
    obtain hret | ⟨v, hv, hgo, hle⟩ := ih
    · exact .inl hret
    obtain ⟨t, ht, hend⟩ := initGoing_turn hgo (hown m).1 (hown m).2
    have hafter : after sched s (m + 1) = .next t := by rw [after, hv, andThen_next, ht]
    exact hend.imp (fun hret => ⟨m + 1, t, hafter, hret⟩) fun ⟨hgo', hle'⟩ => ⟨t, hafter, hgo', hle.trans hle'⟩

/-- So the command returns, or the rank rises. -/
theorem initGoing_rises (hpres : s.present c = true) (hruns : SeqRuns sched c) (hhealthy : BusHealthy sched s c)
    (h : after sched s n = .next u) (hu : s.initGoing c op u) :
    (∃ k t, after sched s k = .next t ∧ (t.ctrl c).initReturned) ∨
      ∃ m t, after sched s m = .next t ∧ s.initGoing c op t ∧ u.initRank c < t.initRank c := by
  by_contra hno
  obtain ⟨hret, hflat⟩ := not_or.1 hno
  have hstay (m : Nat) (hm : n ≤ m) : ∃ v, after sched s m = .next v ∧ s.initGoing c op v ∧ v.initRank c = u.initRank c := by
    obtain ⟨v, hv, hgo, hle⟩ := (initGoing_after hown h hu hm).resolve_left hret
    exact ⟨v, hv, hgo, le_antisymm (Nat.le_of_not_lt fun hlt => hflat ⟨m, v, hv, hgo, hlt⟩) hle⟩
  obtain ⟨m, hm, hturn⟩ := helpful_comes hruns hhealthy hstay
  obtain ⟨v, hv, hgo, hrank⟩ := hstay m hm
  obtain ⟨t, ht, hend⟩ := helpful_raises hpres hgo
  rw [helpful_congr hrank, ← hturn] at ht
  have hafter : after sched s (m + 1) = .next t := by rw [after, hv, andThen_next, ht]
  obtain hret' | ⟨hgo', hlt⟩ := hend
  · exact hret ⟨m + 1, t, hafter, hret'⟩
  · exact hflat ⟨m + 1, t, hafter, hgo', hrank ▸ hlt⟩

/-- So it returns, since no rank is above 19. -/
theorem initGoing_returns (hpres : s.present c = true) (hruns : SeqRuns sched c) (hhealthy : BusHealthy sched s c) (fuel : Nat)
    (hfuel : 20 ≤ u.initRank c + fuel) (h : after sched s n = .next u) (hu : s.initGoing c op u) :
    ∃ k t, after sched s k = .next t ∧ (t.ctrl c).initReturned := by
  induction fuel generalizing n u with
  | zero =>
    have hlt := initPosition_lt hu.own
    have hle := (initRank_bounds u c).2
    omega
  | succ fuel ih =>
    obtain hret | ⟨m, t, ht, hgo, hlt⟩ := initGoing_rises hown hpres hruns hhealthy h hu
    · exact hret
    · exact ih (by omega) ht hgo

end

/-- Settles O58: on a fair schedule with a healthy BUS the rank cannot stay where it is. -/
theorem healthyBusLetsInitReturn : Obligations.HealthyBusLetsInitReturn := by
  intro sched s c op hinv hpres hallowed hp hown hruns hhealthy
  have hstart : s.initGoing c op s := ⟨rfl, hinv, hallowed, .i1, by decide, hp⟩
  obtain ⟨n, t, ht, ⟨hidle, hresp⟩, hinit⟩ :=
    initGoing_returns (n := 0) hown hpres hruns hhealthy 20 (by omega) rfl hstart
  exact ⟨n, t, ht, (not_busy_iff _).2 hidle, hresp, hinit⟩

end Sys2Proof.Machine
end

section
/-! SUPPORT. What a command of an instance is on its way to, or has come to, whatever turns the agents take (60_exceptions.md
R241, R251): its own steps lead on or to a status of its row, and no other turn reaches its sequencer or its response. -/

namespace Sys2Proof.Machine

/-! ## The command of a phase and its statuses -/

/-- The command whose step list a phase is in. -/
@[simp] def Phase.command : Phase → Option Instr
  | .idle => none
  | .init op _ => some (.init op)
  | .filter op _ => some (.cfgfilt op)
  | .tx fr _ => some (.tx fr)
  | .rx f _ => some (.rx f)

/-- The statuses in the row of a command (R241), without the status 5 of a block that does not decode (R105, R106); the codec
functions return none. -/
@[simp] def statusRow : Instr → List Status
  | .init _ => [.ok, .configurationFailed]
  | .cfgfilt _ => [.ok, .configurationFailed, .illegalCommand]
  | .tx _ => [.ok, .bufferExhausted, .invalidFrame, .timeout, .illegalCommand]
  | .rx _ => [.ok, .bufferExhausted, .invalidFrame, .illegalCommand]
  | .encode _ | .decode _ _ _ _ => []

/-- The controller runs the command `i`, or is idle with a response of its row. -/
def Ctrl.serves (k : Ctrl) (i : Instr) : Prop :=
  k.seq.phase.command = some i ∨ k.seq.phase = .idle ∧ ∃ st ∈ statusRow i, k.resp.s0 = st.code

section
variable {k l : Ctrl} {i : Instr}

theorem serves_running {ph : Phase} (hp : k.seq.phase = ph) (hi : ph.command = some i) : k.serves i := .inl (hp ▸ hi)

theorem serves_ended {st : Status} (h : k.seq.phase = .idle ∧ k.resp = ⟨st.code, 0, 0, 0, 0⟩) (hst : st ∈ statusRow i) :
    k.serves i :=
  .inr ⟨h.1, st, hst, by rw [h.2]⟩

theorem serves_congr (hseq : l.seq = k.seq) (hresp : l.resp = k.resp) (h : k.serves i) : l.serves i := by
  unfold Ctrl.serves
  rwa [hseq, hresp]

theorem command_of_busy (h : k.serves i) (hb : k.seq.busy = true) : k.seq.phase.command = some i :=
  h.resolve_right fun hend => (busy_iff _).1 hb hend.1

theorem status_of_not_busy (h : k.serves i) (hb : k.seq.busy = false) : ∃ st ∈ statusRow i, k.resp.s0 = st.code := by
  obtain hrun | ⟨-, hst⟩ := h
  · simp [(not_busy_iff _).1 hb] at hrun
  · exact hst

/-- At its issue a command begins, or is rejected because the instance is not initialised (R57, R106 (d)). -/
theorem issue_serves (hidle : k.seq.phase = .idle) (hi : (startPhase i).command = some i) :
    (k.issue (startPhase i)).serves i := by
  unfold Ctrl.issue
  split
  next hrejected =>
    have hrow : .illegalCommand ∈ statusRow i := by cases i <;> simp_all [startPhase, Phase.needsInit]
    exact serves_ended ⟨hidle, rfl⟩ hrow
  next => exact serves_running (start_phase k _) hi

end

/-! ## The steps of the four commands -/

section
variable {s m t : State} {c d : Inst}

theorem initNext_statusRow {op : InitOp} {wait inak : Bool} {a : InitStep} {st : Status}
    (h : a.next op wait inak = .error st) : st ∈ statusRow (.init op) := by
  cases a with
  | i0 => by_cases ht : timingValid op = true <;> simp_all
  | i9 => simp_all
  | _ => simp at h

theorem filterNext_statusRow {op : FilterOp} {bad : Bool} {a : FilterStep} {st : Status} (h : a.next op bad = .error st) :
    st ∈ statusRow (.cfgfilt op) := by
  cases a with
  | f0 => by_cases hbank : nBanks ≤ op.bank.toNat <;> simp_all
  | f2 => cases bad <;> simp_all
  | f9 => simp_all
  | _ => simp at h

theorem txNext_statusRow {k : Ctrl} {budget : Nat} {fr : Frame} {a : TxStep} {st : Status}
    (h : k.txNext budget fr a = .error st) : st ∈ statusRow (.tx fr) := by
  cases a with
  | t1 => by_cases hfull : k.firstEmpty = none <;> simp_all [Ctrl.txNext]
  | t2 => cases hlong : encodeFrame fr <;> simp_all [Ctrl.txNext]
  | t8 =>
    by_cases hdone : (k.mb k.seq.sel).done = true
    · simp_all [Ctrl.txNext]
    · by_cases hlt : k.seq.tick + 1 < budget <;> simp [Ctrl.txNext, hdone, hlt] at h
  | t9 => simp_all [Ctrl.txNext]
  | _ => simp [Ctrl.txNext] at h

/-- A step of `INIT` leads on or to a status of its row. -/
theorem initMoved_serves {k l : Ctrl} {op : InitOp} {wait : Bool} {a : InitStep} (h : k.initMoved l op wait a) :
    l.serves (.init op) := by
  have hnext := h.next
  cases hx : a.next op wait k.msr.inak <;> rw [hx] at hnext
  · exact serves_ended hnext (initNext_statusRow hx)
  · exact serves_running hnext rfl

/-- The converse of `filterStep_steps`: a step of `CFGFILT` that has a next state has met the mode that it needs (R276). -/
theorem filterStep_stepped {op : FilterOp} {a : FilterStep} (hp : (s.ctrl c).seq.phase = .filter op a)
    (h : filterStep c op a s = .next t) : s.filterStepped t c op a := by
  have hfinit (ha : a.needsFinit = true) : s.flt.finit = true := by
    cases a with
    | f4 | f5 | f6 | f7a | f7b => exact (writeInInit_eq_next.1 h).1
    | _ => cases ha
  obtain ⟨t', ht', hs⟩ := filterStep_steps hp hfinit
  cases ht'.symm.trans ((seqStep_filter hp).trans h)
  exact hs

/-- A step of `CFGFILT` leads on or to a status of its row. -/
theorem filterStepped_serves {op : FilterOp} {a : FilterStep} (h : s.filterStepped t c op a) :
    (t.ctrl c).serves (.cfgfilt op) := by
  have hnext := h.next
  cases hx : a.next op (comboRejected s.cfg op) <;> rw [hx] at hnext
  · exact serves_ended hnext (filterNext_statusRow hx)
  · exact serves_running hnext rfl

/-- A step of `TX` leads on or to a status of its row. -/
theorem txMoved_serves {k l : Ctrl} {budget : Nat} {fr : Frame} {a : TxStep} (h : k.txMoved l c budget fr a) :
    l.serves (.tx fr) := by
  have hnext := h.next
  cases hx : k.txNext budget fr a <;> rw [hx] at hnext
  · exact serves_ended hnext (txNext_statusRow hx)
  · exact serves_running hnext rfl

/-- A step of `RX`, from any state: it changes its own instance alone and leads on or to a status of its row. -/
def State.rxServed (s t : State) (c : Inst) (f : Fifo) : Prop :=
  (∀ d, d ≠ c → t.ctrl d = s.ctrl d) ∧ (t.ctrl c).serves (.rx f)

theorem upd_rxServed {f : Fifo} {g : Ctrl → Ctrl} (h : (g (s.ctrl c)).serves (.rx f)) : s.rxServed (s.upd c g) c f :=
  ⟨fun _ hd => ctrl_upd_ne _ _ hd, by rwa [ctrl_upd_same]⟩

theorem regRead_rxServed {f : Fifo} {r : Reg} {g : Word → Ctrl → Ctrl} (hg : ∀ v k, (g v k).serves (.rx f))
    (h : (regRead c r s fun v t => .next (t.upd c (g v))) = .next t) : s.rxServed t c f := by
  obtain ⟨v, -, h⟩ := regRead_eq_next.1 h
  cases h
  rw [afterRead_upd]
  exact ⟨fun _ hd => by simp [ctrl_upd_ne _ _ hd], by rw [ctrl_upd_same]; exact hg v _⟩

theorem checkPending_serves (k : Ctrl) (f : Fifo) (v : Word) : (k.checkPending f v).serves (.rx f) := by
  unfold Ctrl.checkPending
  split
  · exact serves_ended ⟨rfl, rfl⟩ (by simp)
  · exact serves_running rfl rfl

theorem rxStep_served {f : Fifo} {a : RxStep} (h : rxStep c f a s = .next t) : s.rxServed t c f := by
  cases a with
  | x1 => exact regRead_rxServed (r := .rf c f) (g := fun v k => k.checkPending f v) (fun v k => checkPending_serves k f v) h
  | x2 | x3 | x4 | x5 => exact regRead_rxServed (fun _ _ => serves_running rfl rfl) h
  | x6 =>
    simp only [rxStep] at h
    split at h <;> cases h
    · exact upd_rxServed (serves_ended ⟨rfl, rfl⟩ (by simp))
    · exact upd_rxServed (serves_running rfl rfl)
  | x7 fr => cases h; exact upd_rxServed (.inr ⟨rfl, .ok, by simp, rfl⟩)

/-! ## Turns while the command runs -/

/-- A step of the running command leads on or to a status of its row (R57, R240). -/
theorem seqStep_serves {i : Instr} (hi : (s.ctrl c).seq.phase.command = some i) (h : seqStep c s = .next t) :
    (t.ctrl c).serves i := by
  obtain ⟨hp, -⟩ | ⟨op, a, hp, -⟩ | ⟨op, a, hp, hstep⟩ | ⟨fr, a, hp, -⟩ | ⟨f, a, hp, hstep⟩ := seqStep_cases h <;>
    rw [hp] at hi <;> cases hi
  · obtain ⟨m, -, hmoved⟩ := initStep_eq_next hp h
    exact initMoved_serves hmoved.own
  · exact filterStepped_serves (filterStep_stepped hp hstep)
  · obtain ⟨t', ht', -, hmoved⟩ := txStep_moves hp
    cases ht'.symm.trans h
    exact txMoved_serves hmoved
  · exact (rxStep_served hstep).2

theorem eq_other_of_ne (h : d ≠ c) : d = c.other := by
  cases c <;> cases d <;> simp_all [Inst.other]

/-- The reset at I2 of the primary's `INIT` leaves a running secondary as it is: under `ALL_INSTANCES` it does not take place
(R266, R277). -/
theorem collabPart_other {a : InitStep} (h : collabPart c a s = .next m) (hb : s.busy c.other = true) :
    m.ctrl c.other = s.ctrl c.other := by
  by_cases hreset : c = .primary ∧ a = .i2
  · obtain ⟨rfl, rfl⟩ := hreset
    obtain rfl | ⟨-, hidle⟩ := collabReset_eq_next (show collabReset s = .next m from h)
    · rfl
    · exact absurd hb (by simp [Inst.other, hidle])
  · rw [collabPart_of_ne (by cases c <;> simp_all) s] at h
    cases h
    rfl

/-- A step of one SEQ leaves the other instance as it is while a command runs there. -/
theorem seqStep_other (hb : s.busy c.other = true) (h : seqStep c s = .next t) : t.ctrl c.other = s.ctrl c.other := by
  obtain ⟨-, rfl | ⟨b, rfl⟩⟩ | ⟨op, a, hp, -⟩ | ⟨op, a, hp, hstep⟩ | ⟨fr, a, hp, -⟩ | ⟨f, a, hp, hstep⟩ := seqStep_cases h
  · rfl
  · exact ctrl_upd_other s c _
  · obtain ⟨m, hm, hmoved⟩ := initStep_eq_next hp h
    exact hmoved.other.trans (collabPart_other hm hb)
  · exact (filterStep_moved hstep).1 _ (other_ne c)
  · obtain ⟨t', ht', hkept, -⟩ := txStep_moves hp
    cases ht'.symm.trans h
    exact hkept.other
  · exact (rxStep_served hstep).1 _ (other_ne c)

/-- While a command runs, every turn keeps it on its way or ends it with a status of its row. -/
theorem turn_serves {i : Instr} {x : Turn} (h : (s.ctrl c).serves i) (hb : s.busy c = true) (hx : turn x s = .next t) :
    (t.ctrl c).serves i := by
  obtain ⟨d, b, -, hidle, -, rfl⟩ | ⟨d, -, hstep⟩ | ⟨d, e, -, hbus | rfl⟩ := turn_cases hx
  · have hne : c ≠ d := by rintro rfl; simp [hb] at hidle
    rwa [ctrl_upd_ne _ _ hne]
  · by_cases hd : c = d
    · exact hd ▸ seqStep_serves (hd ▸ command_of_busy h hb) hstep
    · obtain rfl := eq_other_of_ne hd
      rwa [seqStep_other hb hstep]
  · have hk := busStep_kept hbus c
    exact serves_congr hk.seq hk.resp h
  · exact h

end

/-! ## Runs -/

/-- `runTurns_induct` for a property that the turns need keep only while the command runs. -/
theorem runTurns_induct_busy {P : State → Prop} {c : Inst}
    (hseq : ∀ s t, P s → s.busy c = true → seqStep c s = .next t → P t)
    (hturn : ∀ x s t, P s → s.busy c = true → turn x s = .next t → P t)
    (henv : ∀ s e, P s → P { s with env := e }) {t : State} :
    ∀ ts s, P s → runTurns c ts s = .next t → P t := by
  intro ts
  induction ts with
  | nil => intro s hp h; exact runAlone_induct hseq _ _ _ (henv s [] hp) h
  | cons x ts ih =>
    intro s hp h
    unfold runTurns at h
    split at h
    next hb =>
      obtain ⟨m, hm, h⟩ := andThen_eq_next.1 h
      exact ih m (hturn x _ m (henv s ts hp) (by rwa [State.busy_def, ctrl_withEnv]) hm) h
    next => cases h; exact henv s _ hp

/-- A run of a command that reaches a next state has the command still running or ended with a status of its row. -/
theorem runCommand_serves {i : Instr} {s t : State} (hi : (startPhase i).command = some i)
    (h : runCommand (startPhase i) s = .next t) : (t.ctrl s.active).serves i := by
  obtain ⟨hidle, hrun⟩ := runCommand_eq_next.1 h
  refine runTurns_induct_busy (P := fun u => (u.ctrl s.active).serves i)
    (fun _ _ hu hb hv => seqStep_serves (command_of_busy hu hb) hv) (fun _ _ _ hu hb hv => turn_serves hu hb hv)
    (fun u e hu => by rwa [ctrl_withEnv]) _ _ ?_ hrun
  rw [ctrl_upd_same]
  exact issue_serves ((not_busy_iff _).1 hidle) hi

/-- `exec_cases` with the row: the codec functions write their field, and every other instruction runs its command. -/
theorem exec_command_or_codec {i : Instr} {s t : State} (h : exec i s = .next t) :
    ((startPhase i).command = some i ∧ runCommand (startPhase i) s = .next t) ∨ ∃ r, t = { s with codec := r } := by
  cases i with
  | encode fr => cases h; exact .inr ⟨_, rfl⟩
  | decode ri rdt rdl rdh => cases h; exact .inr ⟨_, rfl⟩
  | _ => exact .inl ⟨rfl, h⟩

/-- Settles O54: a run ends idle or at an unsatisfied `await`, where the phase is one of an `INIT`, and the phase of a running
command is one of the command that was issued. -/
theorem onlyInitCanHang : Obligations.OnlyInitCanHang := by
  intro s t i hidle h hb
  obtain ⟨hi, hrun⟩ | ⟨r, rfl⟩ := exec_command_or_codec h
  · have hw : t.waiting s.active = true :=
      (runTurns_ends _ _ _ (runCommand_eq_next.1 hrun).2).resolve_left (by simp [hb])
    have hcommand := command_of_busy (runCommand_serves hi hrun) hb
    obtain ⟨op, hp | hp⟩ := waiting_init hw <;> rw [hp] at hcommand <;> cases hcommand <;> exact ⟨⟨op, rfl⟩, hw⟩
  · rw [State.busy_def, ctrl_withCodec, ← State.busy_def, hidle] at hb
    cases hb

/-- Settles O55: the command is no longer running, so its response is one of its row. -/
theorem commandsReturnOnlyTheirStatuses : Obligations.CommandsReturnOnlyTheirStatuses := by
  intro s t c hidle hend
  simp only [State.idleAt, Bool.and_eq_true, decide_eq_true_eq] at hidle
  obtain ⟨rfl, -⟩ := hidle
  have hstatus {i : Instr} (hi : (startPhase i).command = some i) (h : runCommand (startPhase i) s = .next t) :
      ∃ st ∈ statusRow i, (t.ctrl s.active).resp.s0 = st.code :=
    status_of_not_busy (runCommand_serves hi h) hend
  refine ⟨fun op h => ?_, fun op h => ?_, fun fr h => ?_, fun f h => ?_⟩
  · simpa [Status.code] using hstatus (i := .init op) rfl h
  · simpa [Status.code] using hstatus (i := .cfgfilt op) rfl h
  · simpa [Status.code] using hstatus (i := .tx fr) rfl h
  · simpa [Status.code] using hstatus (i := .rx f) rfl h

/-- A SEQ alone makes no step at an unsatisfied `await` (log 22). -/
theorem runAlone_waiting {c : Inst} {s : State} (h : s.waiting c = true) (n : Nat) : runAlone c n s = .next s := by
  cases n <;> simp [runAlone, h]

/-- Settles O25: the step carries on the running command with no turn left, and SEQ alone does not move at an `await`. -/
theorem waitingInitStaysUntilBusMoves : Obligations.WaitingInitStaysUntilBusMoves := by
  intro s hvalid hpresent henv hw
  have hrun : step s = runTurns s.active [] s := by simp [step, hvalid, hpresent, waiting_busy hw, henv]
  have hsame : ({ s with env := [] } : State) = s := by rw [← henv]
  rw [hrun, runTurns, hsame]
  exact runAlone_waiting hw _

end Sys2Proof.Machine
end

section
/-! SUPPORT. `Collab.Reset` by its scope, and the bank register writes that overlapping `CFGFILT` commands bring about outside
filter-bank initialisation mode (70_reset_and_hazards.md R265, R266, R276, 93_implementation_defined.md U8, U21). -/

namespace Sys2Proof.Machine

/-! ## `Collab.Reset` (R265, R266) -/

section
variable {s : State}

/-- The reset would hit a running command of the secondary (R277, U21). -/
theorem collabReset_fault (hscope : s.cfg.primaryResetScope = .allInstances) (hpres : s.present .secondary = true)
    (hbusy : s.busy .secondary = true) : collabReset s = .fault .resetUnderCommand := by
  simp [collabReset, hscope, hpres, hbusy]

theorem collabReset_allInstances (hscope : s.cfg.primaryResetScope = .allInstances) (hpres : s.present .secondary = true)
    (hbusy : s.busy .secondary = false) : collabReset s = .next s.resetPrimary.resetSecondary := by
  simp [collabReset, hscope, hpres, hbusy]

/-- The secondary is out of the scope, or there is none (log 30). -/
theorem collabReset_primaryOnly (hout : ¬(s.cfg.primaryResetScope = .allInstances ∧ s.present .secondary = true)) :
    collabReset s = .next s.resetPrimary := by
  cases hscope : s.cfg.primaryResetScope with
  | primaryAndFilters => simp [collabReset, hscope]
  | allInstances =>
    have hpres : s.present .secondary = false := by simpa [hscope] using hout
    simp [collabReset, hscope, hpres]

end

theorem afterReset_asleep (k : Ctrl) (n : Nat) : (k.afterReset n).asleep k.seq :=
  ⟨afterReset_clean k n, rfl, rfl, rfl, rfl⟩

theorem resetPrimary_asleep (s : State) : s.resetPrimary.primary.asleep s.primary.seq := afterReset_asleep s.primary s.draws

/-- Resetting the secondary as well also takes back that it is initialised (R266). -/
theorem resetSecondary_asleep (s : State) :
    s.resetSecondary.secondary.asleep { s.secondary.seq with inited := false } :=
  afterReset_asleep (s.secondary.updSeq ({ · with inited := false })) s.draws

theorem resetPrimary_cleared (s : State) : s.resetPrimary.flt.cleared := ⟨rfl, rfl, rfl, rfl, rfl⟩

/-- Settles O21: the secondary is in the scope or not, and in the scope it runs a command or not; what is reset is asleep. -/
theorem collabResetCoversItsScope : Obligations.CollabResetCoversItsScope := by
  intro s
  refine ⟨fun ⟨hscope, hpres, hbusy⟩ => collabReset_fault hscope hpres hbusy, fun hallowed => ?_⟩
  obtain ⟨hfinit, hfm1r, hfs1r, hffa1r, hfa1r⟩ := resetPrimary_cleared s
  have hprimary := resetPrimary_asleep s
  by_cases hin : s.cfg.primaryResetScope = .allInstances ∧ s.present .secondary = true
  · obtain ⟨hscope, hpres⟩ := hin
    have hbusy : s.busy .secondary = false := by simpa [hscope, hpres] using hallowed
    have hsecondary := resetSecondary_asleep s.resetPrimary
    refine ⟨_, collabReset_allInstances hscope hpres hbusy, hfinit, hfm1r, hfs1r, hffa1r, hfa1r, fun c _ => ?_, hprimary.seq,
      fun hout => ?_, fun _ _ => hsecondary.seq⟩
    · cases c with
      | primary => exact ⟨hprimary.mcr, hprimary.msr, hprimary.btr, hprimary.clean.mb, hprimary.clean.rf⟩
      | secondary =>
        exact ⟨hsecondary.mcr, hsecondary.msr, hsecondary.btr, hsecondary.clean.mb, hsecondary.clean.rf⟩
    · simp [hscope, hpres] at hout
  · refine ⟨_, collabReset_primaryOnly hin, hfinit, hfm1r, hfs1r, hffa1r, hfa1r, fun c hc => ?_, hprimary.seq, fun _ => rfl,
      fun hscope hpres => absurd ⟨hscope, hpres⟩ hin⟩
    obtain rfl := hc.resolve_right hin
    exact ⟨hprimary.mcr, hprimary.msr, hprimary.btr, hprimary.clean.mb, hprimary.clean.rf⟩

/-! ## Bank register writes outside filter-bank initialisation mode (R276) -/

theorem writeInInit_of_not_finit {s : State} (h : s.flt.finit = false) (t : State) :
    writeInInit s t = .fault .filterWriteOutsideInit := by
  simp [writeInInit, h]

/-- Settles O32: F4 to F7 make their write through `writeInInit`, which stops when `FINIT` is clear. -/
theorem filterWriteOutsideInitModeFaults : Obligations.FilterWriteOutsideInitModeFaults := by
  intro s c op a hp ha hfinit
  rw [seqStep_filter hp]
  cases a with
  | f4 | f5 | f6 | f7a | f7b => exact writeInInit_of_not_finit hfinit _
  | f0 | f1 | f2 | f3 | f8 | f9 => simp at ha

end Sys2Proof.Machine
end
